-- ==== Sys2Proof/Word.lean ====
section
/-! DEFINITION. The two word types of the machine (spec/00_scope.md R7, R8). -/

namespace Sys2Proof

/-- A byte: `DATA_BITS` = 8 (R7). -/
abbrev Byte := BitVec 8

/-- A 16-bit word or register: `ADDR_BITS` = 16 (R7). -/
abbrev Word := BitVec 16

/-- An address of the one 65,536-byte space (20_memory R50); arithmetic on it is mod 2^16 (R55). -/
abbrev Addr := BitVec 16

end Sys2Proof
end

