-- ==== Sys2Proof/Machine/Flags.lean ====
section
/-! DEFINITION. The condition codes (spec/10_state.md R26 to R34) and every ALU function of the spec: each answers its
result and the whole CC byte afterwards, flags it does not write untouched (R27). -/

namespace Sys2Proof.Machine

/-- The eight flags of CC (10_state R26). -/
inductive Flag where
  | e | f | h | i | n | z | v | c
deriving DecidableEq, Repr

/-- A flag's bit (10_state R26). -/
def flagBit : Flag → Nat
  | .e => 7
  | .f => 6
  | .h => 5
  | .i => 4
  | .n => 3
  | .z => 2
  | .v => 1
  | .c => 0

/-- `CC.f`. -/
def getFlag (fl : Flag) (cc : Byte) : Bool := cc.getLsbD (flagBit fl)

/-- `CC.f <- on`. -/
def setFlag (fl : Flag) (on : Bool) (cc : Byte) : Byte :=
  if on then cc ||| (1#8 <<< flagBit fl) else cc &&& ~~~(1#8 <<< flagBit fl)

/-- A result with the CC byte that goes with it. -/
structure Alu (w : Nat) where
  value : BitVec w
  cc : Byte
deriving DecidableEq, Repr

/-- `CC.N` and `CC.Z` from a value (41_arith_logic_8bit R153, 42_arith_16bit R202). -/
def setNZ {w : Nat} (v : BitVec w) (cc : Byte) : Byte :=
  cc |> setFlag .n v.msb |> setFlag .z (decide (v = 0))

/-! ## Two operands -/

/-- `add8` (41_arith_logic_8bit R150). -/
def add8 (a b : Byte) (cin : Bool) (cc : Byte) : Alu 8 :=
  let raw := a.toNat + b.toNat + cin.toNat
  let r := BitVec.ofNat 8 raw
  { value := r
    cc := cc
      |> setNZ r
      |> setFlag .c (decide (255 < raw))
      |> setFlag .v ((a ^^^ r) &&& (b ^^^ r)).msb
      |> setFlag .h (decide (15 < a.toNat % 16 + b.toNat % 16 + cin.toNat)) }

/-- `sub8` (41_arith_logic_8bit R151): C is the borrow, H is not written. -/
def sub8 (a b : Byte) (bin : Bool) (cc : Byte) : Alu 8 :=
  let raw : Int := a.toNat - b.toNat - bin.toNat
  let r := BitVec.ofInt 8 raw
  { value := r
    cc := cc
      |> setNZ r
      |> setFlag .c (decide (raw < 0))
      |> setFlag .v ((a ^^^ b) &&& (a ^^^ r)).msb }

/-- `logic8` (41_arith_logic_8bit R152): V cleared, C and H kept. -/
def logic8 (r : Byte) (cc : Byte) : Alu 8 :=
  { value := r, cc := cc |> setNZ r |> setFlag .v false }

/-- `add16` (42_arith_16bit R200). -/
def add16 (a b : Word) (cc : Byte) : Alu 16 :=
  let raw := a.toNat + b.toNat
  let r := BitVec.ofNat 16 raw
  { value := r
    cc := cc
      |> setNZ r
      |> setFlag .c (decide (65535 < raw))
      |> setFlag .v ((a ^^^ r) &&& (b ^^^ r)).msb }

/-- `sub16` (42_arith_16bit R201). -/
def sub16 (a b : Word) (cc : Byte) : Alu 16 :=
  let raw : Int := a.toNat - b.toNat
  let r := BitVec.ofInt 16 raw
  { value := r
    cc := cc
      |> setNZ r
      |> setFlag .c (decide (raw < 0))
      |> setFlag .v ((a ^^^ b) &&& (a ^^^ r)).msb }

/-- The product of MUL, Z from its 16 bits and C from its bit 7 (41_arith_logic_8bit R178). -/
def mul8 (a b : Byte) (cc : Byte) : Alu 16 :=
  let p := BitVec.ofNat 16 (a.toNat * b.toNat)
  { value := p, cc := cc |> setFlag .z (decide (p = 0)) |> setFlag .c (p.getLsbD 7) }

/-- DAA: both tests on A before any correction; C is set or kept (41_arith_logic_8bit R179). -/
def daa8 (a : Byte) (cc : Byte) : Alu 8 :=
  let low := decide (9 < a.toNat % 16) || getFlag .h cc
  let high := decide (0x99 < a.toNat) || getFlag .c cc
  let r := BitVec.ofNat 8 (a.toNat + (if low then 0x06 else 0) + (if high then 0x60 else 0))
  { value := r, cc := cc |> setFlag .c (getFlag .c cc || high) |> setNZ r }

/-! ## One operand (43_unary_shift R220 to R230) -/

/-- `neg8` (R220). -/
def neg8 (m : Byte) (cc : Byte) : Alu 8 := sub8 0 m false cc

/-- `com8` (R221): V cleared, C set. -/
def com8 (m : Byte) (cc : Byte) : Alu 8 :=
  let r := m ^^^ 0xFF#8
  { value := r, cc := cc |> setNZ r |> setFlag .v false |> setFlag .c true }

/-- `inc8` (R222): C kept. -/
def inc8 (m : Byte) (cc : Byte) : Alu 8 :=
  let r := m + 1
  { value := r, cc := cc |> setNZ r |> setFlag .v (decide (m = 0x7F#8)) }

/-- `dec8` (R223): C kept. -/
def dec8 (m : Byte) (cc : Byte) : Alu 8 :=
  let r := m - 1
  { value := r, cc := cc |> setNZ r |> setFlag .v (decide (m = 0x80#8)) }

/-- `tst8` (R224): the operand is left as it is; V cleared, C kept. -/
def tst8 (m : Byte) (cc : Byte) : Alu 8 :=
  { value := m, cc := cc |> setNZ m |> setFlag .v false }

/-- `clr8` (R225). -/
def clr8 (cc : Byte) : Alu 8 :=
  { value := 0
    cc := cc |> setFlag .n false |> setFlag .z true |> setFlag .v false |> setFlag .c false }

/-- `asl8` (R226). -/
def asl8 (m : Byte) (cc : Byte) : Alu 8 :=
  let r := m <<< 1
  { value := r
    cc := cc |> setNZ r |> setFlag .v (m.getLsbD 7 ^^ m.getLsbD 6) |> setFlag .c (m.getLsbD 7) }

/-- `asr8` (R227): V kept. -/
def asr8 (m : Byte) (cc : Byte) : Alu 8 :=
  let r := (m >>> 1) ||| (m &&& 0x80#8)
  { value := r, cc := cc |> setNZ r |> setFlag .c (m.getLsbD 0) }

/-- `lsr8` (R228): V kept. -/
def lsr8 (m : Byte) (cc : Byte) : Alu 8 :=
  let r := m >>> 1
  { value := r, cc := cc |> setNZ r |> setFlag .c (m.getLsbD 0) }

/-- `rol8` (R229): the old C enters bit 0. -/
def rol8 (m : Byte) (cc : Byte) : Alu 8 :=
  let r := (m <<< 1) ||| (if getFlag .c cc then 0x01#8 else 0x00#8)
  { value := r
    cc := cc |> setNZ r |> setFlag .v (m.getLsbD 7 ^^ m.getLsbD 6) |> setFlag .c (m.getLsbD 7) }

/-- `ror8` (R230): the old C enters bit 7; V kept. -/
def ror8 (m : Byte) (cc : Byte) : Alu 8 :=
  let r := (m >>> 1) ||| (if getFlag .c cc then 0x80#8 else 0x00#8)
  { value := r, cc := cc |> setNZ r |> setFlag .c (m.getLsbD 0) }

/-! ## Branch conditions -/

/-- The sixteen predicates of the branches (46_control_transfer R331). -/
inductive Cond where
  | ra | rn | hi | ls | cc | cs | ne | eq | vc | vs | pl | mi | ge | lt | gt | le
deriving DecidableEq, Repr

/-- Whether a branch is taken, from CC as it stands before it (46_control_transfer R331). -/
def condHolds (k : Cond) (cc : Byte) : Bool :=
  let n := getFlag .n cc
  let z := getFlag .z cc
  let v := getFlag .v cc
  let c := getFlag .c cc
  match k with
  | .ra => true
  | .rn => false
  | .hi => !c && !z
  | .ls => c || z
  | .cc => !c
  | .cs => c
  | .ne => !z
  | .eq => z
  | .vc => !v
  | .vs => v
  | .pl => !n
  | .mi => n
  | .ge => n == v
  | .lt => n != v
  | .gt => !z && n == v
  | .le => z || n != v

end Sys2Proof.Machine
end

