-- ==== Sys2Proof/Config.lean ====
section
/-! DEFINITION. The constants the spec fixes (spec/00_scope.md R7), and the values `State.reset` takes for the
launch parameters the spec leaves open. No free value is needed: spec/70_reset_and_hazards.md R451 leaves no
instruction result open. -/

namespace Sys2Proof.Config

/-- `ROM_BASE`: addresses from here up are read-only during a run (20_memory R51, R54). -/
def romBase : Nat := 0x8000

/-- The number of addresses (20_memory R50). -/
def memBytes : Nat := 0x10000

/-- The opcode byte that selects page 2 (30_encoding R82). -/
def page2Byte : Byte := 0x10#8

/-- The opcode byte that selects page 3 (30_encoding R82). -/
def page3Byte : Byte := 0x11#8

/-- The longest instruction, in bytes (30_encoding R80). -/
def maxLength : Nat := 5

/-- Where SWI takes its target under `mc6809` (20_memory R62, 47_system_placeholders R381). -/
def swiVector : Addr := 0xFFFA#16

/-- Where SWI2 takes its target under `mc6809` (R382). -/
def swi2Vector : Addr := 0xFFF4#16

/-- Where SWI3 takes its target under `mc6809` (R383). -/
def swi3Vector : Addr := 0xFFF2#16

/-- `INSTR_CEILING`'s default (00_scope R7). -/
def defaultCeiling : Nat := 100000

/-- What a byte of memory that nothing has written reads as. DESIGN CHOICE, unsafe (log 5): the spec leaves the
unwritten part of `MEM_IMAGE` open (20_memory R57, D18). -/
def unlistedByte : Byte := 0x00#8

/-- `PROG_START` of `State.reset`. DESIGN CHOICE, unsafe (log 3): the address of the spec's own example
(70_reset_and_hazards R442). -/
def defaultStart : Addr := 0x8000#16

/-- `PROG_END` of `State.reset`: never reached. DESIGN CHOICE, unsafe (log 3). -/
def defaultEnd : Nat := 0x10000

/-- `END_LINE` of `State.reset`. DESIGN CHOICE, unsafe (log 3). -/
def defaultEndLine : Int := 0

/-- `RESUME_SKIPS_BREAKPOINT` of `State.reset`. DESIGN CHOICE, unsafe (log 6). -/
def defaultResumeSkips : Bool := false

/-- `RESET_A`, `RESET_B` and `RESET_CC` of `State.reset`. DESIGN CHOICE, unsafe (log 4). -/
def defaultResetByte : Byte := 0x00#8

/-- `RESET_X` and `RESET_Y` of `State.reset`. DESIGN CHOICE, unsafe (log 4). -/
def defaultResetIndex : Word := 0x0000#16

/-- `RESET_U` and `RESET_S` of `State.reset`: "the usual top of RAM value" of 70_reset_and_hazards R445. DESIGN CHOICE,
unsafe (log 4). -/
def defaultResetStack : Word := 0x8000#16

end Sys2Proof.Config
end

