-- ==== Sys2Proof/Syntax.lean ====
section
/-! DEFINITION. The instructions as data: one constructor of `Instr` per mnemonic of spec/opcode_table.json, its
argument the operand form (spec/30_encoding.md R84). Register codes, sub-modes and masks are decoded here once. -/

namespace Sys2Proof

/-- The base registers of indexed addressing, post-byte selector 0 to 3 (40_effective_address R127). -/
inductive IndexReg where
  | x | y | u | s
deriving DecidableEq, Repr

/-- The 16-bit registers, D = A:B among them: EXG/TFR codes 0 to 5 (45_transfer_stack R304). -/
inductive Reg16 where
  | d | x | y | u | s | pc
deriving DecidableEq, Repr

/-- The 8-bit registers: EXG/TFR codes 8 to 0xB (45_transfer_stack R304). -/
inductive Reg8 where
  | a | b | cc | dp
deriving DecidableEq, Repr

/-- A valid REGPAIR post-byte: both registers of one width (45_transfer_stack R305). The first is the source of
TFR, the second its destination. -/
inductive RegPair where
  | wide (first second : Reg16)
  | narrow (first second : Reg8)
deriving DecidableEq, Repr

/-- The defined complex sub-modes of the indexed post-byte (40_effective_address R129 to R141). -/
inductive SubMode where
  /-- `,R+` (0x0, R130) -/
  | inc1 (r : IndexReg)
  /-- `,R++` (0x1, R131) -/
  | inc2 (r : IndexReg)
  /-- `,-R` (0x2, R132) -/
  | dec1 (r : IndexReg)
  /-- `,--R` (0x3, R133) -/
  | dec2 (r : IndexReg)
  /-- `,R` (0x4, R134) -/
  | plain (r : IndexReg)
  /-- `B,R` (0x5, R135) -/
  | accB (r : IndexReg)
  /-- `A,R` (0x6, R136) -/
  | accA (r : IndexReg)
  /-- `n8,R` (0x8, R137) -/
  | off8 (r : IndexReg) (o : Byte)
  /-- `n16,R` (0x9, R138) -/
  | off16 (r : IndexReg) (o : Word)
  /-- `D,R` (0xB, R139) -/
  | accD (r : IndexReg)
  /-- `n8,PC` (0xC, R140) -/
  | pc8 (o : Byte)
  /-- `n16,PC` (0xD, R141) -/
  | pc16 (o : Word)
deriving DecidableEq, Repr

/-- An indexed operand: the simple form with a 5-bit signed offset (R128), or a complex form with its indirect
flag (R129, R142). -/
inductive Indexed where
  | simple (r : IndexReg) (o : BitVec 5)
  | complex (m : SubMode) (indirect : Bool)
deriving DecidableEq, Repr

/-- A memory operand: the three modes that have an effective address (40_effective_address R120). -/
inductive MemMode where
  | dir (dd : Byte)
  | ext (a : Addr)
  | idx (p : Indexed)
deriving DecidableEq, Repr

/-- The source of an 8-bit two-operand instruction: IMM8, or a byte of memory (R121, R125). -/
inductive Src8 where
  | imm (ii : Byte)
  | mem (m : MemMode)
deriving DecidableEq, Repr

/-- The source of a 16-bit instruction: IMM16, or a word of memory (R121, R126). -/
inductive Src16 where
  | imm (w : Word)
  | mem (m : MemMode)
deriving DecidableEq, Repr

/-- The instructions. A page byte (0x10, 0x11) is a row of the table of its own: `prefixPage2 op` and
`prefixPage3 op` are that byte followed by an opcode byte `op` whose slot on the page is empty; followed by a filled
slot it is part of that slot's instruction (30_encoding R82, R83). -/
inductive Instr where
  | prefixPage2 (op : Byte)
  | prefixPage3 (op : Byte)
  -- one operand, memory (43_unary_shift)
  | neg (m : MemMode) | com (m : MemMode) | lsr (m : MemMode) | ror (m : MemMode)
  | asr (m : MemMode) | asl (m : MemMode) | rol (m : MemMode) | dec (m : MemMode)
  | inc (m : MemMode) | tst (m : MemMode) | jmp (m : MemMode) | clr (m : MemMode)
  -- page 1, rows 1 to 3
  | nop | sync | lbra (o : Word) | lbsr (o : Word) | daa | orcc (ii : Byte) | andcc (ii : Byte)
  | sex | exg (p : RegPair) | tfr (p : RegPair)
  | bra (o : Byte) | brn (o : Byte) | bhi (o : Byte) | bls (o : Byte) | bcc (o : Byte) | bcs (o : Byte)
  | bne (o : Byte) | beq (o : Byte) | bvc (o : Byte) | bvs (o : Byte) | bpl (o : Byte) | bmi (o : Byte)
  | bge (o : Byte) | blt (o : Byte) | bgt (o : Byte) | ble (o : Byte)
  | leax (p : Indexed) | leay (p : Indexed) | leas (p : Indexed) | leau (p : Indexed)
  | pshs (mm : Byte) | puls (mm : Byte) | pshu (mm : Byte) | pulu (mm : Byte)
  | rts | abx | rti | cwai (ii : Byte) | mul | swi
  -- one operand, A and B (43_unary_shift)
  | nega | coma | lsra | rora | asra | asla | rola | deca | inca | tsta | clra
  | negb | comb | lsrb | rorb | asrb | aslb | rolb | decb | incb | tstb | clrb
  -- rows 8 to B
  | suba (m : Src8) | cmpa (m : Src8) | sbca (m : Src8) | subd (m : Src16) | anda (m : Src8)
  | bita (m : Src8) | lda (m : Src8) | eora (m : Src8) | adca (m : Src8) | ora (m : Src8)
  | adda (m : Src8) | cmpx (m : Src16) | bsr (o : Byte) | ldx (m : Src16)
  | sta (m : MemMode) | jsr (m : MemMode) | stx (m : MemMode)
  -- rows C to F
  | subb (m : Src8) | cmpb (m : Src8) | sbcb (m : Src8) | addd (m : Src16) | andb (m : Src8)
  | bitb (m : Src8) | ldb (m : Src8) | eorb (m : Src8) | adcb (m : Src8) | orb (m : Src8)
  | addb (m : Src8) | ldd (m : Src16) | ldu (m : Src16)
  | stb (m : MemMode) | std (m : MemMode) | stu (m : MemMode)
  -- page 2 (30_encoding R99)
  | lbrn (o : Word) | lbhi (o : Word) | lbls (o : Word) | lbcc (o : Word) | lbcs (o : Word)
  | lbne (o : Word) | lbeq (o : Word) | lbvc (o : Word) | lbvs (o : Word) | lbpl (o : Word)
  | lbmi (o : Word) | lbge (o : Word) | lblt (o : Word) | lbgt (o : Word) | lble (o : Word)
  | swi2 | cmpd (m : Src16) | cmpy (m : Src16) | ldy (m : Src16) | sty (m : MemMode)
  | lds (m : Src16) | sts (m : MemMode)
  -- page 3 (30_encoding R100)
  | swi3 | cmpu (m : Src16) | cmps (m : Src16)
deriving DecidableEq, Repr

end Sys2Proof
end

