-- ==== Sys2Proof/WellFormed.lean ====
section
/-! DEFINITION. Which terms of `Instr` are instructions. The operand types admit only what the encodings admit, so
two checks remain: a page byte's own constructor stands only for an opcode byte whose slot is empty (spec/30_encoding.md
R83, R99, R100). -/

namespace Sys2Proof

/-- The 38 filled slots of page 2 (30_encoding R99). -/
def page2Filled : List Byte :=
  [0x21#8, 0x22#8, 0x23#8, 0x24#8, 0x25#8, 0x26#8, 0x27#8, 0x28#8, 0x29#8, 0x2A#8,
   0x2B#8, 0x2C#8, 0x2D#8, 0x2E#8, 0x2F#8, 0x3F#8, 0x83#8, 0x8C#8, 0x8E#8] ++
  [0x93#8, 0x9C#8, 0x9E#8, 0x9F#8, 0xA3#8, 0xAC#8, 0xAE#8, 0xAF#8, 0xB3#8, 0xBC#8,
   0xBE#8, 0xBF#8, 0xCE#8, 0xDE#8, 0xDF#8, 0xEE#8, 0xEF#8, 0xFE#8, 0xFF#8]

/-- The 9 filled slots of page 3 (30_encoding R100). -/
def page3Filled : List Byte :=
  [0x3F#8, 0x83#8, 0x8C#8, 0x93#8, 0x9C#8, 0xA3#8, 0xAC#8, 0xB3#8, 0xBC#8]

/-- An instruction is well-formed when some bytes encode it. -/
def wellFormed : Instr → Bool
  | .prefixPage2 op => !page2Filled.contains op
  | .prefixPage3 op => !page3Filled.contains op
  | _ => true

end Sys2Proof
end

