-- ==== Sys2Proof/Decode.lean ====
section
/-! DEFINITION. Decoding, total on any bytes, and after it the encoder (spec/30_encoding.md; the opcode map is that of
R96, R99 and R100, grid for grid). A byte the list does not have counts as 0x00. -/

namespace Sys2Proof

/-! ## Bytes and words -/

/-- The more significant byte of a word. -/
def hiByte (w : Word) : Byte := w.extractLsb' 8 8

/-- The less significant byte of a word. -/
def loByte (w : Word) : Byte := w.extractLsb' 0 8

/-- `h:l` (00_scope R8). -/
def joinBytes (h l : Byte) : Word := h ++ l

/-- `sext8` (00_scope R8): a signed byte as a 16-bit number. -/
def sext8 (b : Byte) : Word := b.signExtend 16

/-- `sext5` (00_scope R8): a signed 5-bit field as a 16-bit number. -/
def sext5 (o : BitVec 5) : Word := o.signExtend 16

/-- Byte `n` of an instruction. -/
def byteAt (bs : List Byte) (n : Nat) : Byte := bs.getD n 0#8

/-- The big-endian word at byte `n` of an instruction (20_memory R58). -/
def wordAt (bs : List Byte) (n : Nat) : Word := joinBytes (byteAt bs n) (byteAt bs (n + 1))

/-! ## Register codes and post-bytes -/

/-- Post-byte selector to base register: X=0, Y=1, U=2, S=3 (40_effective_address R127). -/
def indexRegOf (sel : BitVec 2) : IndexReg :=
  if sel = 0#2 then .x else if sel = 1#2 then .y else if sel = 2#2 then .u else .s

/-- The selector of a base register. -/
def selOf : IndexReg → BitVec 2
  | .x => 0#2 | .y => 1#2 | .u => 2#2 | .s => 3#2

/-- EXG/TFR codes 0 to 5 (45_transfer_stack R304). -/
def reg16Of (code : BitVec 4) : Option Reg16 :=
  if code = 0x0#4 then some .d
  else if code = 0x1#4 then some .x
  else if code = 0x2#4 then some .y
  else if code = 0x3#4 then some .u
  else if code = 0x4#4 then some .s
  else if code = 0x5#4 then some .pc
  else none

/-- EXG/TFR codes 8 to 0xB (45_transfer_stack R304). -/
def reg8Of (code : BitVec 4) : Option Reg8 :=
  if code = 0x8#4 then some .a
  else if code = 0x9#4 then some .b
  else if code = 0xA#4 then some .cc
  else if code = 0xB#4 then some .dp
  else none

/-- The code of a 16-bit register. -/
def code16 : Reg16 → BitVec 4
  | .d => 0x0#4 | .x => 0x1#4 | .y => 0x2#4 | .u => 0x3#4 | .s => 0x4#4 | .pc => 0x5#4

/-- The code of an 8-bit register. -/
def code8 : Reg8 → BitVec 4
  | .a => 0x8#4 | .b => 0x9#4 | .cc => 0xA#4 | .dp => 0xB#4

/-- A REGPAIR post-byte: first register in bits 7:4, second in 3:0; valid when both codes are defined and of one
width (30_encoding R93, 45_transfer_stack R305). -/
def decodePair (pb : Byte) : Option RegPair :=
  let c1 := pb.extractLsb' 4 4
  let c2 := pb.extractLsb' 0 4
  match reg16Of c1, reg16Of c2, reg8Of c1, reg8Of c2 with
  | some r1, some r2, _, _ => some (.wide r1 r2)
  | _, _, some r1, some r2 => some (.narrow r1 r2)
  | _, _, _, _ => none

/-- The sub-mode of a complex post-byte with its number of offset bytes; `none` for 0x7, 0xA, 0xE and 0xF
(40_effective_address R129, R143). `o1` and `o2` are the bytes after the post-byte. -/
def decodeSubMode (m : BitVec 4) (r : IndexReg) (o1 o2 : Byte) : Option (SubMode × Nat) :=
  if m = 0x0#4 then some (.inc1 r, 0)
  else if m = 0x1#4 then some (.inc2 r, 0)
  else if m = 0x2#4 then some (.dec1 r, 0)
  else if m = 0x3#4 then some (.dec2 r, 0)
  else if m = 0x4#4 then some (.plain r, 0)
  else if m = 0x5#4 then some (.accB r, 0)
  else if m = 0x6#4 then some (.accA r, 0)
  else if m = 0x8#4 then some (.off8 r o1, 1)
  else if m = 0x9#4 then some (.off16 r (joinBytes o1 o2), 2)
  else if m = 0xB#4 then some (.accD r, 0)
  else if m = 0xC#4 then some (.pc8 o1, 1)
  else if m = 0xD#4 then some (.pc16 (joinBytes o1 o2), 2)
  else none

/-- The indexed post-byte with its offset bytes, and how many offset bytes there are (30_encoding R90,
40_effective_address R124, R127, R128). -/
def decodeIndexed (pb o1 o2 : Byte) : Option (Indexed × Nat) :=
  let r := indexRegOf (pb.extractLsb' 5 2)
  if pb.getLsbD 7 then
    match decodeSubMode (pb.extractLsb' 0 4) r o1 o2 with
    | some (m, n) => some (.complex m (pb.getLsbD 4), n)
    | none => none
  else some (.simple r (pb.extractLsb' 0 5), 0)

/-! ## The opcode map -/

/-- What a filled slot holds: its format (30_encoding R84) and the instruction its operand makes. -/
inductive Form where
  | inh (i : Instr)
  | imm8 (f : Byte → Instr)
  | imm16 (f : Word → Instr)
  | dir (f : MemMode → Instr)
  | ext (f : MemMode → Instr)
  | idx (f : MemMode → Instr)
  | lea (f : Indexed → Instr)
  | rel8 (f : Byte → Instr)
  | rel16 (f : Word → Instr)
  | regpair (f : RegPair → Instr)
  | regmask (f : Byte → Instr)

/-- Row 0x of the page-1 grid. -/
def page1Row0 : List (Option Form) :=
  [some (.dir .neg), none, none, some (.dir .com),
   some (.dir .lsr), none, some (.dir .ror), some (.dir .asr),
   some (.dir .asl), some (.dir .rol), some (.dir .dec), none,
   some (.dir .inc), some (.dir .tst), some (.dir .jmp), some (.dir .clr)]

/-- Row 1x of the page-1 grid. -/
def page1Row1 : List (Option Form) :=
  [none, none, some (.inh .nop), some (.inh .sync),
   none, none, some (.rel16 .lbra), some (.rel16 .lbsr),
   none, some (.inh .daa), some (.imm8 .orcc), none,
   some (.imm8 .andcc), some (.inh .sex), some (.regpair .exg), some (.regpair .tfr)]

/-- Row 2x of the page-1 grid. -/
def page1Row2 : List (Option Form) :=
  [some (.rel8 .bra), some (.rel8 .brn), some (.rel8 .bhi), some (.rel8 .bls),
   some (.rel8 .bcc), some (.rel8 .bcs), some (.rel8 .bne), some (.rel8 .beq),
   some (.rel8 .bvc), some (.rel8 .bvs), some (.rel8 .bpl), some (.rel8 .bmi),
   some (.rel8 .bge), some (.rel8 .blt), some (.rel8 .bgt), some (.rel8 .ble)]

/-- Row 3x of the page-1 grid. -/
def page1Row3 : List (Option Form) :=
  [some (.lea .leax), some (.lea .leay), some (.lea .leas), some (.lea .leau),
   some (.regmask .pshs), some (.regmask .puls), some (.regmask .pshu), some (.regmask .pulu),
   none, some (.inh .rts), some (.inh .abx), some (.inh .rti),
   some (.imm8 .cwai), some (.inh .mul), none, some (.inh .swi)]

/-- Row 4x of the page-1 grid. -/
def page1Row4 : List (Option Form) :=
  [some (.inh .nega), none, none, some (.inh .coma),
   some (.inh .lsra), none, some (.inh .rora), some (.inh .asra),
   some (.inh .asla), some (.inh .rola), some (.inh .deca), none,
   some (.inh .inca), some (.inh .tsta), none, some (.inh .clra)]

/-- Row 5x of the page-1 grid. -/
def page1Row5 : List (Option Form) :=
  [some (.inh .negb), none, none, some (.inh .comb),
   some (.inh .lsrb), none, some (.inh .rorb), some (.inh .asrb),
   some (.inh .aslb), some (.inh .rolb), some (.inh .decb), none,
   some (.inh .incb), some (.inh .tstb), none, some (.inh .clrb)]

/-- Row 6x of the page-1 grid. -/
def page1Row6 : List (Option Form) :=
  [some (.idx .neg), none, none, some (.idx .com),
   some (.idx .lsr), none, some (.idx .ror), some (.idx .asr),
   some (.idx .asl), some (.idx .rol), some (.idx .dec), none,
   some (.idx .inc), some (.idx .tst), some (.idx .jmp), some (.idx .clr)]

/-- Row 7x of the page-1 grid. -/
def page1Row7 : List (Option Form) :=
  [some (.ext .neg), none, none, some (.ext .com),
   some (.ext .lsr), none, some (.ext .ror), some (.ext .asr),
   some (.ext .asl), some (.ext .rol), some (.ext .dec), none,
   some (.ext .inc), some (.ext .tst), some (.ext .jmp), some (.ext .clr)]

/-- Row 8x of the page-1 grid. -/
def page1Row8 : List (Option Form) :=
  [some (.imm8 (.suba ∘ .imm)), some (.imm8 (.cmpa ∘ .imm)), some (.imm8 (.sbca ∘ .imm)), some (.imm16 (.subd ∘ .imm)),
   some (.imm8 (.anda ∘ .imm)), some (.imm8 (.bita ∘ .imm)), some (.imm8 (.lda ∘ .imm)), none,
   some (.imm8 (.eora ∘ .imm)), some (.imm8 (.adca ∘ .imm)), some (.imm8 (.ora ∘ .imm)), some (.imm8 (.adda ∘ .imm)),
   some (.imm16 (.cmpx ∘ .imm)), some (.rel8 .bsr), some (.imm16 (.ldx ∘ .imm)), none]

/-- Row 9x of the page-1 grid. -/
def page1Row9 : List (Option Form) :=
  [some (.dir (.suba ∘ .mem)), some (.dir (.cmpa ∘ .mem)), some (.dir (.sbca ∘ .mem)), some (.dir (.subd ∘ .mem)),
   some (.dir (.anda ∘ .mem)), some (.dir (.bita ∘ .mem)), some (.dir (.lda ∘ .mem)), some (.dir .sta),
   some (.dir (.eora ∘ .mem)), some (.dir (.adca ∘ .mem)), some (.dir (.ora ∘ .mem)), some (.dir (.adda ∘ .mem)),
   some (.dir (.cmpx ∘ .mem)), some (.dir .jsr), some (.dir (.ldx ∘ .mem)), some (.dir .stx)]

/-- Row Ax of the page-1 grid. -/
def page1RowA : List (Option Form) :=
  [some (.idx (.suba ∘ .mem)), some (.idx (.cmpa ∘ .mem)), some (.idx (.sbca ∘ .mem)), some (.idx (.subd ∘ .mem)),
   some (.idx (.anda ∘ .mem)), some (.idx (.bita ∘ .mem)), some (.idx (.lda ∘ .mem)), some (.idx .sta),
   some (.idx (.eora ∘ .mem)), some (.idx (.adca ∘ .mem)), some (.idx (.ora ∘ .mem)), some (.idx (.adda ∘ .mem)),
   some (.idx (.cmpx ∘ .mem)), some (.idx .jsr), some (.idx (.ldx ∘ .mem)), some (.idx .stx)]

/-- Row Bx of the page-1 grid. -/
def page1RowB : List (Option Form) :=
  [some (.ext (.suba ∘ .mem)), some (.ext (.cmpa ∘ .mem)), some (.ext (.sbca ∘ .mem)), some (.ext (.subd ∘ .mem)),
   some (.ext (.anda ∘ .mem)), some (.ext (.bita ∘ .mem)), some (.ext (.lda ∘ .mem)), some (.ext .sta),
   some (.ext (.eora ∘ .mem)), some (.ext (.adca ∘ .mem)), some (.ext (.ora ∘ .mem)), some (.ext (.adda ∘ .mem)),
   some (.ext (.cmpx ∘ .mem)), some (.ext .jsr), some (.ext (.ldx ∘ .mem)), some (.ext .stx)]

/-- Row Cx of the page-1 grid. -/
def page1RowC : List (Option Form) :=
  [some (.imm8 (.subb ∘ .imm)), some (.imm8 (.cmpb ∘ .imm)), some (.imm8 (.sbcb ∘ .imm)), some (.imm16 (.addd ∘ .imm)),
   some (.imm8 (.andb ∘ .imm)), some (.imm8 (.bitb ∘ .imm)), some (.imm8 (.ldb ∘ .imm)), none,
   some (.imm8 (.eorb ∘ .imm)), some (.imm8 (.adcb ∘ .imm)), some (.imm8 (.orb ∘ .imm)), some (.imm8 (.addb ∘ .imm)),
   some (.imm16 (.ldd ∘ .imm)), none, some (.imm16 (.ldu ∘ .imm)), none]

/-- Row Dx of the page-1 grid. -/
def page1RowD : List (Option Form) :=
  [some (.dir (.subb ∘ .mem)), some (.dir (.cmpb ∘ .mem)), some (.dir (.sbcb ∘ .mem)), some (.dir (.addd ∘ .mem)),
   some (.dir (.andb ∘ .mem)), some (.dir (.bitb ∘ .mem)), some (.dir (.ldb ∘ .mem)), some (.dir .stb),
   some (.dir (.eorb ∘ .mem)), some (.dir (.adcb ∘ .mem)), some (.dir (.orb ∘ .mem)), some (.dir (.addb ∘ .mem)),
   some (.dir (.ldd ∘ .mem)), some (.dir .std), some (.dir (.ldu ∘ .mem)), some (.dir .stu)]

/-- Row Ex of the page-1 grid. -/
def page1RowE : List (Option Form) :=
  [some (.idx (.subb ∘ .mem)), some (.idx (.cmpb ∘ .mem)), some (.idx (.sbcb ∘ .mem)), some (.idx (.addd ∘ .mem)),
   some (.idx (.andb ∘ .mem)), some (.idx (.bitb ∘ .mem)), some (.idx (.ldb ∘ .mem)), some (.idx .stb),
   some (.idx (.eorb ∘ .mem)), some (.idx (.adcb ∘ .mem)), some (.idx (.orb ∘ .mem)), some (.idx (.addb ∘ .mem)),
   some (.idx (.ldd ∘ .mem)), some (.idx .std), some (.idx (.ldu ∘ .mem)), some (.idx .stu)]

/-- Row Fx of the page-1 grid. -/
def page1RowF : List (Option Form) :=
  [some (.ext (.subb ∘ .mem)), some (.ext (.cmpb ∘ .mem)), some (.ext (.sbcb ∘ .mem)), some (.ext (.addd ∘ .mem)),
   some (.ext (.andb ∘ .mem)), some (.ext (.bitb ∘ .mem)), some (.ext (.ldb ∘ .mem)), some (.ext .stb),
   some (.ext (.eorb ∘ .mem)), some (.ext (.adcb ∘ .mem)), some (.ext (.orb ∘ .mem)), some (.ext (.addb ∘ .mem)),
   some (.ext (.ldd ∘ .mem)), some (.ext .std), some (.ext (.ldu ∘ .mem)), some (.ext .stu)]

/-- Page 1: row by high nibble, column by low nibble; 33 slots are empty (R96, R97) and the two page bytes are not
instructions of page 1. -/
def page1 : List (List (Option Form)) :=
  [page1Row0, page1Row1, page1Row2, page1Row3, page1Row4, page1Row5, page1Row6, page1Row7] ++
  [page1Row8, page1Row9, page1RowA, page1RowB, page1RowC, page1RowD, page1RowE, page1RowF]

/-- The slot of page 1 that an opcode byte indexes (R83). -/
def page1Slot (op : Byte) : Option Form :=
  (page1.getD (op.toNat / 16) []).getD (op.toNat % 16) none

/-- The filled slots of page 2 (R99). -/
def page2 : List (Byte × Form) :=
  [(0x21#8, .rel16 .lbrn), (0x22#8, .rel16 .lbhi), (0x23#8, .rel16 .lbls),
   (0x24#8, .rel16 .lbcc), (0x25#8, .rel16 .lbcs), (0x26#8, .rel16 .lbne),
   (0x27#8, .rel16 .lbeq), (0x28#8, .rel16 .lbvc), (0x29#8, .rel16 .lbvs),
   (0x2A#8, .rel16 .lbpl), (0x2B#8, .rel16 .lbmi), (0x2C#8, .rel16 .lbge),
   (0x2D#8, .rel16 .lblt), (0x2E#8, .rel16 .lbgt), (0x2F#8, .rel16 .lble),
   (0x3F#8, .inh .swi2), (0x83#8, .imm16 (.cmpd ∘ .imm)), (0x8C#8, .imm16 (.cmpy ∘ .imm)),
   (0x8E#8, .imm16 (.ldy ∘ .imm)), (0x93#8, .dir (.cmpd ∘ .mem))] ++
  [(0x9C#8, .dir (.cmpy ∘ .mem)), (0x9E#8, .dir (.ldy ∘ .mem)), (0x9F#8, .dir .sty),
   (0xA3#8, .idx (.cmpd ∘ .mem)), (0xAC#8, .idx (.cmpy ∘ .mem)), (0xAE#8, .idx (.ldy ∘ .mem)),
   (0xAF#8, .idx .sty), (0xB3#8, .ext (.cmpd ∘ .mem)), (0xBC#8, .ext (.cmpy ∘ .mem)),
   (0xBE#8, .ext (.ldy ∘ .mem)), (0xBF#8, .ext .sty), (0xCE#8, .imm16 (.lds ∘ .imm)),
   (0xDE#8, .dir (.lds ∘ .mem)), (0xDF#8, .dir .sts), (0xEE#8, .idx (.lds ∘ .mem)),
   (0xEF#8, .idx .sts), (0xFE#8, .ext (.lds ∘ .mem)), (0xFF#8, .ext .sts)]

/-- The filled slots of page 3 (R100). -/
def page3 : List (Byte × Form) :=
  [(0x3F#8, .inh .swi3), (0x83#8, .imm16 (.cmpu ∘ .imm)), (0x8C#8, .imm16 (.cmps ∘ .imm)),
   (0x93#8, .dir (.cmpu ∘ .mem)), (0x9C#8, .dir (.cmps ∘ .mem)), (0xA3#8, .idx (.cmpu ∘ .mem)),
   (0xAC#8, .idx (.cmps ∘ .mem)), (0xB3#8, .ext (.cmpu ∘ .mem)), (0xBC#8, .ext (.cmps ∘ .mem))]

/-- The slot of a page given by its filled slots. -/
def slotOf (op : Byte) : List (Byte × Form) → Option Form
  | [] => none
  | (k, f) :: rest => if k = op then some f else slotOf op rest

/-! ## Decoding -/

/-- Why bytes are no instruction, each with the offset of the byte that shows it; the bytes up to that one have been
consumed (R108, R109). -/
inductive DecodeError where
  /-- The opcode byte indexes an empty slot of page 1. -/
  | unknownOpcode (op : Byte)
  /-- An indexed post-byte with an undefined sub-mode (40_effective_address R143). -/
  | illegalPostByte (offset : Nat) (pb : Byte)
  /-- An EXG/TFR post-byte that is not valid (45_transfer_stack R305). -/
  | illegalRegisterCode (offset : Nat) (pb : Byte)
deriving DecidableEq, Repr

/-- How many bytes have been fetched when the error shows. -/
def errorLength : DecodeError → Nat
  | .unknownOpcode _ => 1
  | .illegalPostByte n _ => n + 1
  | .illegalRegisterCode n _ => n + 1

/-- The post-byte at byte `n` and its offset bytes, made into an instruction of `f`. -/
def decodeIdx (f : Indexed → Instr) (n : Nat) (bs : List Byte) : Except DecodeError (Instr × Nat) :=
  match decodeIndexed (byteAt bs n) (byteAt bs (n + 1)) (byteAt bs (n + 2)) with
  | some (p, k) => .ok (f p, n + 1 + k)
  | none => .error (.illegalPostByte n (byteAt bs n))

/-- The operand bytes of a slot's format, from byte `n` on, and the length of the whole instruction (R85 to R94,
R102). -/
def decodeForm (n : Nat) (bs : List Byte) : Form → Except DecodeError (Instr × Nat)
  | .inh i => .ok (i, n)
  | .imm8 f => .ok (f (byteAt bs n), n + 1)
  | .imm16 f => .ok (f (wordAt bs n), n + 2)
  | .dir f => .ok (f (.dir (byteAt bs n)), n + 1)
  | .ext f => .ok (f (.ext (wordAt bs n)), n + 2)
  | .idx f => decodeIdx (fun p => f (.idx p)) n bs
  | .lea f => decodeIdx f n bs
  | .rel8 f => .ok (f (byteAt bs n), n + 1)
  | .rel16 f => .ok (f (wordAt bs n), n + 2)
  | .regpair f =>
    match decodePair (byteAt bs n) with
    | some p => .ok (f p, n + 1)
    | none => .error (.illegalRegisterCode n (byteAt bs n))
  | .regmask f => .ok (f (byteAt bs n), n + 1)

/-- The instruction the bytes begin with, and its length (R82, R83). -/
def decode (bs : List Byte) : Except DecodeError (Instr × Nat) :=
  let b := byteAt bs 0
  if b = Config.page2Byte then
    match slotOf (byteAt bs 1) page2 with
    | some f => decodeForm 2 bs f
    | none => .ok (.prefixPage2 (byteAt bs 1), 2)
  else if b = Config.page3Byte then
    match slotOf (byteAt bs 1) page3 with
    | some f => decodeForm 2 bs f
    | none => .ok (.prefixPage3 (byteAt bs 1), 2)
  else
    match page1Slot b with
    | some f => decodeForm 1 bs f
    | none => .error (.unknownOpcode b)

/-! ## Encoding -/

/-- A REGPAIR post-byte (30_encoding R93). -/
def encodePair : RegPair → Byte
  | .wide r1 r2 => code16 r1 ++ code16 r2
  | .narrow r1 r2 => code8 r1 ++ code8 r2

/-- A complex post-byte: bit 7 set, selector in 6:5, indirect flag in 4, sub-mode in 3:0 (30_encoding R90). -/
def complexByte (sel : BitVec 2) (indirect : Bool) (m : BitVec 4) : Byte :=
  ((1#1 ++ sel : BitVec 3) ++ BitVec.ofBool indirect : BitVec 4) ++ m

/-- The post-byte and offset bytes of a complex operand; PC-relative forms take selector 0 (40_effective_address
R146). -/
def encodeComplex (i : Bool) : SubMode → List Byte
  | .inc1 r => [complexByte (selOf r) i 0x0#4]
  | .inc2 r => [complexByte (selOf r) i 0x1#4]
  | .dec1 r => [complexByte (selOf r) i 0x2#4]
  | .dec2 r => [complexByte (selOf r) i 0x3#4]
  | .plain r => [complexByte (selOf r) i 0x4#4]
  | .accB r => [complexByte (selOf r) i 0x5#4]
  | .accA r => [complexByte (selOf r) i 0x6#4]
  | .off8 r o => [complexByte (selOf r) i 0x8#4, o]
  | .off16 r o => [complexByte (selOf r) i 0x9#4, hiByte o, loByte o]
  | .accD r => [complexByte (selOf r) i 0xB#4]
  | .pc8 o => [complexByte 0#2 i 0xC#4, o]
  | .pc16 o => [complexByte 0#2 i 0xD#4, hiByte o, loByte o]

/-- The post-byte and offset bytes of an indexed operand (30_encoding R90). -/
def encodeIndexed : Indexed → List Byte
  | .simple r o => [(0#1 ++ selOf r : BitVec 3) ++ o]
  | .complex m i => encodeComplex i m

/-- The opcode byte of the mode and its operand bytes (R88 to R90). -/
def encodeMem (dir idx ext : Byte) : MemMode → List Byte
  | .dir dd => [dir, dd]
  | .idx p => idx :: encodeIndexed p
  | .ext a => [ext, hiByte a, loByte a]

/-- The same with an 8-bit immediate form (R86). -/
def encodeSrc8 (imm dir idx ext : Byte) : Src8 → List Byte
  | .imm ii => [imm, ii]
  | .mem m => encodeMem dir idx ext m

/-- The same with a 16-bit immediate form (R87). -/
def encodeSrc16 (imm dir idx ext : Byte) : Src16 → List Byte
  | .imm w => [imm, hiByte w, loByte w]
  | .mem m => encodeMem dir idx ext m

/-- The bytes of an instruction, first byte first (R96, R99, R100). -/
def encode : Instr → List Byte
  | .prefixPage2 op => [0x10#8, op]
  | .prefixPage3 op => [0x11#8, op]
  | .neg m => encodeMem 0x00#8 0x60#8 0x70#8 m
  | .com m => encodeMem 0x03#8 0x63#8 0x73#8 m
  | .lsr m => encodeMem 0x04#8 0x64#8 0x74#8 m
  | .ror m => encodeMem 0x06#8 0x66#8 0x76#8 m
  | .asr m => encodeMem 0x07#8 0x67#8 0x77#8 m
  | .asl m => encodeMem 0x08#8 0x68#8 0x78#8 m
  | .rol m => encodeMem 0x09#8 0x69#8 0x79#8 m
  | .dec m => encodeMem 0x0A#8 0x6A#8 0x7A#8 m
  | .inc m => encodeMem 0x0C#8 0x6C#8 0x7C#8 m
  | .tst m => encodeMem 0x0D#8 0x6D#8 0x7D#8 m
  | .jmp m => encodeMem 0x0E#8 0x6E#8 0x7E#8 m
  | .clr m => encodeMem 0x0F#8 0x6F#8 0x7F#8 m
  | .nop => [0x12#8]
  | .sync => [0x13#8]
  | .lbra o => [0x16#8, hiByte o, loByte o]
  | .lbsr o => [0x17#8, hiByte o, loByte o]
  | .daa => [0x19#8]
  | .orcc ii => [0x1A#8, ii]
  | .andcc ii => [0x1C#8, ii]
  | .sex => [0x1D#8]
  | .exg p => [0x1E#8, encodePair p]
  | .tfr p => [0x1F#8, encodePair p]
  | .bra o => [0x20#8, o]
  | .brn o => [0x21#8, o]
  | .bhi o => [0x22#8, o]
  | .bls o => [0x23#8, o]
  | .bcc o => [0x24#8, o]
  | .bcs o => [0x25#8, o]
  | .bne o => [0x26#8, o]
  | .beq o => [0x27#8, o]
  | .bvc o => [0x28#8, o]
  | .bvs o => [0x29#8, o]
  | .bpl o => [0x2A#8, o]
  | .bmi o => [0x2B#8, o]
  | .bge o => [0x2C#8, o]
  | .blt o => [0x2D#8, o]
  | .bgt o => [0x2E#8, o]
  | .ble o => [0x2F#8, o]
  | .leax p => 0x30#8 :: encodeIndexed p
  | .leay p => 0x31#8 :: encodeIndexed p
  | .leas p => 0x32#8 :: encodeIndexed p
  | .leau p => 0x33#8 :: encodeIndexed p
  | .pshs mm => [0x34#8, mm]
  | .puls mm => [0x35#8, mm]
  | .pshu mm => [0x36#8, mm]
  | .pulu mm => [0x37#8, mm]
  | .rts => [0x39#8]
  | .abx => [0x3A#8]
  | .rti => [0x3B#8]
  | .cwai ii => [0x3C#8, ii]
  | .mul => [0x3D#8]
  | .swi => [0x3F#8]
  | .nega => [0x40#8]
  | .coma => [0x43#8]
  | .lsra => [0x44#8]
  | .rora => [0x46#8]
  | .asra => [0x47#8]
  | .asla => [0x48#8]
  | .rola => [0x49#8]
  | .deca => [0x4A#8]
  | .inca => [0x4C#8]
  | .tsta => [0x4D#8]
  | .clra => [0x4F#8]
  | .negb => [0x50#8]
  | .comb => [0x53#8]
  | .lsrb => [0x54#8]
  | .rorb => [0x56#8]
  | .asrb => [0x57#8]
  | .aslb => [0x58#8]
  | .rolb => [0x59#8]
  | .decb => [0x5A#8]
  | .incb => [0x5C#8]
  | .tstb => [0x5D#8]
  | .clrb => [0x5F#8]
  | .suba m => encodeSrc8 0x80#8 0x90#8 0xA0#8 0xB0#8 m
  | .cmpa m => encodeSrc8 0x81#8 0x91#8 0xA1#8 0xB1#8 m
  | .sbca m => encodeSrc8 0x82#8 0x92#8 0xA2#8 0xB2#8 m
  | .subd m => encodeSrc16 0x83#8 0x93#8 0xA3#8 0xB3#8 m
  | .anda m => encodeSrc8 0x84#8 0x94#8 0xA4#8 0xB4#8 m
  | .bita m => encodeSrc8 0x85#8 0x95#8 0xA5#8 0xB5#8 m
  | .lda m => encodeSrc8 0x86#8 0x96#8 0xA6#8 0xB6#8 m
  | .eora m => encodeSrc8 0x88#8 0x98#8 0xA8#8 0xB8#8 m
  | .adca m => encodeSrc8 0x89#8 0x99#8 0xA9#8 0xB9#8 m
  | .ora m => encodeSrc8 0x8A#8 0x9A#8 0xAA#8 0xBA#8 m
  | .adda m => encodeSrc8 0x8B#8 0x9B#8 0xAB#8 0xBB#8 m
  | .cmpx m => encodeSrc16 0x8C#8 0x9C#8 0xAC#8 0xBC#8 m
  | .bsr o => [0x8D#8, o]
  | .ldx m => encodeSrc16 0x8E#8 0x9E#8 0xAE#8 0xBE#8 m
  | .sta m => encodeMem 0x97#8 0xA7#8 0xB7#8 m
  | .jsr m => encodeMem 0x9D#8 0xAD#8 0xBD#8 m
  | .stx m => encodeMem 0x9F#8 0xAF#8 0xBF#8 m
  | .subb m => encodeSrc8 0xC0#8 0xD0#8 0xE0#8 0xF0#8 m
  | .cmpb m => encodeSrc8 0xC1#8 0xD1#8 0xE1#8 0xF1#8 m
  | .sbcb m => encodeSrc8 0xC2#8 0xD2#8 0xE2#8 0xF2#8 m
  | .addd m => encodeSrc16 0xC3#8 0xD3#8 0xE3#8 0xF3#8 m
  | .andb m => encodeSrc8 0xC4#8 0xD4#8 0xE4#8 0xF4#8 m
  | .bitb m => encodeSrc8 0xC5#8 0xD5#8 0xE5#8 0xF5#8 m
  | .ldb m => encodeSrc8 0xC6#8 0xD6#8 0xE6#8 0xF6#8 m
  | .eorb m => encodeSrc8 0xC8#8 0xD8#8 0xE8#8 0xF8#8 m
  | .adcb m => encodeSrc8 0xC9#8 0xD9#8 0xE9#8 0xF9#8 m
  | .orb m => encodeSrc8 0xCA#8 0xDA#8 0xEA#8 0xFA#8 m
  | .addb m => encodeSrc8 0xCB#8 0xDB#8 0xEB#8 0xFB#8 m
  | .ldd m => encodeSrc16 0xCC#8 0xDC#8 0xEC#8 0xFC#8 m
  | .ldu m => encodeSrc16 0xCE#8 0xDE#8 0xEE#8 0xFE#8 m
  | .stb m => encodeMem 0xD7#8 0xE7#8 0xF7#8 m
  | .std m => encodeMem 0xDD#8 0xED#8 0xFD#8 m
  | .stu m => encodeMem 0xDF#8 0xEF#8 0xFF#8 m
  | .lbrn o => [0x10#8, 0x21#8, hiByte o, loByte o]
  | .lbhi o => [0x10#8, 0x22#8, hiByte o, loByte o]
  | .lbls o => [0x10#8, 0x23#8, hiByte o, loByte o]
  | .lbcc o => [0x10#8, 0x24#8, hiByte o, loByte o]
  | .lbcs o => [0x10#8, 0x25#8, hiByte o, loByte o]
  | .lbne o => [0x10#8, 0x26#8, hiByte o, loByte o]
  | .lbeq o => [0x10#8, 0x27#8, hiByte o, loByte o]
  | .lbvc o => [0x10#8, 0x28#8, hiByte o, loByte o]
  | .lbvs o => [0x10#8, 0x29#8, hiByte o, loByte o]
  | .lbpl o => [0x10#8, 0x2A#8, hiByte o, loByte o]
  | .lbmi o => [0x10#8, 0x2B#8, hiByte o, loByte o]
  | .lbge o => [0x10#8, 0x2C#8, hiByte o, loByte o]
  | .lblt o => [0x10#8, 0x2D#8, hiByte o, loByte o]
  | .lbgt o => [0x10#8, 0x2E#8, hiByte o, loByte o]
  | .lble o => [0x10#8, 0x2F#8, hiByte o, loByte o]
  | .swi2 => [0x10#8, 0x3F#8]
  | .cmpd m => 0x10#8 :: encodeSrc16 0x83#8 0x93#8 0xA3#8 0xB3#8 m
  | .cmpy m => 0x10#8 :: encodeSrc16 0x8C#8 0x9C#8 0xAC#8 0xBC#8 m
  | .ldy m => 0x10#8 :: encodeSrc16 0x8E#8 0x9E#8 0xAE#8 0xBE#8 m
  | .sty m => 0x10#8 :: encodeMem 0x9F#8 0xAF#8 0xBF#8 m
  | .lds m => 0x10#8 :: encodeSrc16 0xCE#8 0xDE#8 0xEE#8 0xFE#8 m
  | .sts m => 0x10#8 :: encodeMem 0xDF#8 0xEF#8 0xFF#8 m
  | .swi3 => [0x11#8, 0x3F#8]
  | .cmpu m => 0x11#8 :: encodeSrc16 0x83#8 0x93#8 0xA3#8 0xB3#8 m
  | .cmps m => 0x11#8 :: encodeSrc16 0x8C#8 0x9C#8 0xAC#8 0xBC#8 m

/-! ## The opcode table's words -/

/-- The bytes of a table row's word: the table numbers the first `nbits / 8` bytes of an instruction as one
big-endian number (30_encoding R101), the most significant byte first; the bytes above it are 0x00. -/
def tableBytes (nbits w : Nat) : List Byte :=
  let n := nbits / 8
  (List.range Config.maxLength).map fun k =>
    if k < n then BitVec.ofNat 8 (w / 256 ^ (n - 1 - k)) else 0#8

/-- The instruction the decoder reads from a table row's word. -/
def decodeTableWord (nbits w : Nat) : Option Instr :=
  match decode (tableBytes nbits w) with
  | .ok (i, _) => some i
  | .error _ => none

end Sys2Proof
end

