-- ==== Sys2Proof/Machine/State.lean ====
section
/-! DEFINITION. Everything the spec gives the machine (spec/10_state.md, spec/00_scope.md R7), the ways a step can
stop, and the state after reset. Plain data throughout. -/

namespace Sys2Proof.Machine

/-- The bytes of memory, listed by rising address; an unlisted address reads as `Config.unlistedByte` (log 5). -/
abbrev Memory := List Host.Cell

/-- Addresses strictly rising, each in the address space, and no entry equal to what an unlisted address reads as. -/
def Memory.wf : Memory → Bool
  | [] => true
  | (a, v) :: rest =>
    decide (a < Config.memBytes) && decide (v ≠ Config.unlistedByte) &&
      (match rest with
       | [] => true
       | (b, _) :: _ => decide (a < b)) && Memory.wf rest

/-- The step controller's run state (10_state R37). -/
inductive RunState where
  | idle | running | paused | stopped
deriving DecidableEq, Repr

/-- `PLACEHOLDER_BEHAVIOUR` (00_scope R7, 47_system_placeholders R380). -/
inductive PlaceholderBehaviour where
  | fault | nop | mc6809
deriving DecidableEq, Repr

/-- The six placeholder instructions, by mnemonic (47_system_placeholders R380). -/
inductive Placeholder where
  | swi | swi2 | swi3 | rti | cwai | sync
deriving DecidableEq, Repr

/-- The three opcode pages (30_encoding R82). -/
inductive Page where
  | page1 | page2 | page3
deriving DecidableEq, Repr

/-- The seven kinds of fault with the info each records (60_exceptions R401). -/
inductive FaultInfo where
  | unknownOpcode (page : Page) (op : Byte) (first : Addr)
  | romWrite (a : Addr)
  | pcBeforeStart (pc : Addr)
  | budgetExceeded (count : Nat)
  | illegalPostByte (pb : Byte) (a : Addr)
  | illegalRegisterCode (pb : Byte) (a : Addr)
  | placeholderInstruction (which : Placeholder) (first : Addr)
deriving DecidableEq, Repr

/-- The outcome that stopped a run, which a later `step()` reports again (60_exceptions R404, R410). -/
inductive Report where
  | terminated (finalPC : Addr) (count : Nat) (endLine : Int)
  | fault (info : FaultInfo)
deriving DecidableEq, Repr

/-- The launch parameters: what the host supplies or may set between runs. No instruction changes them and reset
leaves them alone (00_scope R7, 10_state R44, 70_reset_and_hazards R440). -/
structure Launch where
  /-- `PROG_START` -/
  progStart : Addr
  /-- `PROG_END`, 0 to 0x10000 (10_state R39) -/
  progEnd : Nat
  /-- `END_LINE` -/
  endLine : Int
  /-- `INSTR_CEILING` -/
  instrCeiling : Nat
  /-- `BREAKPOINTS`, by rising address (10_state R40) -/
  breakpoints : List Addr
  /-- `PLACEHOLDER_BEHAVIOUR` -/
  placeholder : PlaceholderBehaviour
  /-- `RESUME_SKIPS_BREAKPOINT` (60_exceptions R421) -/
  resumeSkips : Bool
  /-- `MEM_IMAGE` (20_memory R57) -/
  memImage : Memory
  /-- `RESET_A` -/
  resetA : Byte
  /-- `RESET_B` -/
  resetB : Byte
  /-- `RESET_X` -/
  resetX : Word
  /-- `RESET_Y` -/
  resetY : Word
  /-- `RESET_U` -/
  resetU : Word
  /-- `RESET_S` -/
  resetS : Word
  /-- `RESET_CC` -/
  resetCC : Byte
deriving DecidableEq, Repr

/-- The machine. -/
structure State where
  /-- accumulator A, high half of D (10_state R20, R22) -/
  a : Byte
  /-- accumulator B, low half of D -/
  b : Byte
  /-- direct page (R36) -/
  dp : Byte
  /-- condition codes, `E F H I N Z V C` from bit 7 down (R26) -/
  cc : Byte
  /-- index register X -/
  x : Word
  /-- index register Y -/
  y : Word
  /-- user stack pointer U -/
  u : Word
  /-- system stack pointer S -/
  s : Word
  /-- program counter (R24) -/
  pc : Addr
  /-- the address space (R42) -/
  mem : Memory
  /-- `run_state` (R37) -/
  runState : RunState
  /-- `instr_count` (R38) -/
  instrCount : Nat
  /-- the pause flag (R41) -/
  pauseFlag : Bool
  /-- the stop flag (R41) -/
  stopFlag : Bool
  /-- the run loop's `skip` (60_exceptions R421) -/
  skipBreakpoint : Bool
  /-- the host has loaded a program, or part of one, since the last reset: a run may begin only after the next reset
  (70_reset_and_hazards R447, D23, log 18) -/
  resetDue : Bool
  /-- the outcome that stopped the run; none while it can go on, and none after `stop()` (60_exceptions R420) -/
  report : Option Report
  /-- the addresses stack operations have written, by rising address (R43(b), log 10) -/
  stackTouched : List Addr
  /-- the launch parameters (R44) -/
  launch : Launch
deriving DecidableEq, Repr

/-- The seven fatal conditions (60_exceptions R400, R401). Each carries its info and `left`, the state the abandoned
instruction left, in `stopped` with the fault as its report (R404, log 1). All are safe: the spec gives each as the end
of the run. -/
inductive Fault where
  /-- Raised by dispatch on an empty slot: by `step` for page 1, by the two page-byte constructors for pages 2 and 3. Safe. -/
  | unknownOpcode (page : Page) (op : Byte) (first : Addr) (left : State)
  /-- Raised by every run-time byte write at 0x8000 or above: stores, memory-form unary operations, pushes. Safe. -/
  | romWrite (a : Addr) (left : State)
  /-- Raised by `step` at a boundary with PC below `PROG_START`. Safe. -/
  | pcBeforeStart (pc : Addr) (left : State)
  /-- Raised by `step` at a boundary with `instr_count` at the ceiling. Safe. -/
  | budgetExceeded (count : Nat) (left : State)
  /-- Raised by `step` for an indexed post-byte with an undefined sub-mode. Safe. -/
  | illegalPostByte (pb : Byte) (a : Addr) (left : State)
  /-- Raised by `step` for an EXG/TFR post-byte that is not valid. Safe. -/
  | illegalRegisterCode (pb : Byte) (a : Addr) (left : State)
  /-- Raised by the six placeholders under `fault`, and by CWAI and SYNC under `mc6809` too. Safe. -/
  | placeholderInstruction (which : Placeholder) (first : Addr) (left : State)
deriving DecidableEq, Repr

/-- What the machine turns away without doing anything. -/
inductive Refusal where
  /-- No arm of `exec` answers with it: every instruction has its meaning. Safe. -/
  | notModelled (mnemonic : String)
  /-- A host call that is not allowed in the present run state (60_exceptions R420, 70_reset_and_hazards R447); raised
  by `hostCall` only, never by a step. Safe: nothing changes. -/
  | callNotAllowed (now : RunState)
  /-- `run()` or `step()` called in `Idle` after a load and before the reset that must follow it (70_reset_and_hazards
  R444, R447); raised by `hostCall` only. Safe: nothing changes. -/
  | resetRequired
  /-- A program end above 0x10000, which is no value of `PROG_END` (10_state R39); raised by `hostCall` only. Safe:
  nothing changes. -/
  | badProgEnd (progEnd : Nat)
deriving DecidableEq, Repr

/-- What an instruction, a step or a host call answers. -/
abbrev Result := Host.Outcome State Fault Refusal

/-- The state that the reset action leaves, for any launch parameters (10_state R46, 70_reset_and_hazards R440). -/
def resetState (l : Launch) : State where
  a := l.resetA
  b := l.resetB
  dp := 0x00#8
  cc := l.resetCC
  x := l.resetX
  y := l.resetY
  u := l.resetU
  s := l.resetS
  pc := l.progStart
  mem := l.memImage
  runState := .idle
  instrCount := 0
  pauseFlag := false
  stopFlag := false
  skipBreakpoint := false
  resetDue := false
  report := none
  stackTouched := []
  launch := l

/-- The launch parameters of `State.reset`: the spec's defaults, and for each open parameter the value the log names
(log 3, 4, 5, 6). -/
def defaultLaunch : Launch where
  progStart := Config.defaultStart
  progEnd := Config.defaultEnd
  endLine := Config.defaultEndLine
  instrCeiling := Config.defaultCeiling
  breakpoints := []
  placeholder := .fault
  resumeSkips := Config.defaultResumeSkips
  memImage := []
  resetA := Config.defaultResetByte
  resetB := Config.defaultResetByte
  resetX := Config.defaultResetIndex
  resetY := Config.defaultResetIndex
  resetU := Config.defaultResetStack
  resetS := Config.defaultResetStack
  resetCC := Config.defaultResetByte

/-- The machine right after reset, with nothing loaded. -/
def State.reset : State := resetState defaultLaunch

end Sys2Proof.Machine
end

