-- ==== Sys2Proof/Machine/Ops.lean ====
section
/-! DEFINITION. The named operations over memory and registers, raising a fault, the stacks, and the fetch of an
instruction's bytes (spec/20_memory.md, spec/45_transfer_stack.md, spec/60_exceptions.md). -/

namespace Sys2Proof.Machine

/-! ## Outcomes -/

/-- Go on with a next state; a fault or a refusal ends there (00_scope R9, `raise`). -/
def andThen (r : Result) (k : State → Result) : Result :=
  match r with
  | .next t => k t
  | .fault f => .fault f
  | .refused q => .refused q

/-- The fault that carries an info and the state left. -/
def faultOf (left : State) : FaultInfo → Fault
  | .unknownOpcode page op first => .unknownOpcode page op first left
  | .romWrite a => .romWrite a left
  | .pcBeforeStart pc => .pcBeforeStart pc left
  | .budgetExceeded n => .budgetExceeded n left
  | .illegalPostByte pb a => .illegalPostByte pb a left
  | .illegalRegisterCode pb a => .illegalRegisterCode pb a left
  | .placeholderInstruction p first => .placeholderInstruction p first left

/-- `run_state` becomes `Stopped` with the outcome that stopped the run (60_exceptions R400 (c), R410). -/
def stopWith (r : Report) (st : State) : State :=
  { st with runState := .stopped, report := some r }

/-- `raise K(info)`: the one way into a fault. The instruction ends here; no register is written, nothing is undone,
nothing is saved and no handler is entered (60_exceptions R400, R407). -/
def raise (info : FaultInfo) (st : State) : Result :=
  .fault (faultOf (stopWith (.fault info) st) info)

/-! ## Memory -/

/-- The byte at an address of a memory. -/
def memGet : Memory → Nat → Byte
  | [], _ => Config.unlistedByte
  | (k, v) :: rest, a => if k = a then v else memGet rest a

/-- List a byte at its place. -/
def memInsert : Memory → Nat → Byte → Memory
  | [], a, v => [(a, v)]
  | (k, w) :: rest, a, v =>
    if a < k then (a, v) :: (k, w) :: rest else (k, w) :: memInsert rest a v

/-- A memory with one byte replaced, in canonical form if it was. -/
def memSet (m : Memory) (a : Nat) (v : Byte) : Memory :=
  let others := m.filter fun c => decide (c.1 ≠ a)
  if v = Config.unlistedByte then others else memInsert others a v

/-- `MemRead(a, 1)`: never faults, changes nothing (20_memory R52). -/
def readByte (st : State) (a : Addr) : Byte := memGet st.mem a.toNat

/-- `MemRead(a, 2)`: big-endian, the second address mod 2^16 (20_memory R53). -/
def readWord (st : State) (a : Addr) : Word := joinBytes (readByte st a) (readByte st (a + 1))

/-- The loader path: any address, before a run only (20_memory R57). -/
def storeByte (a : Addr) (v : Byte) (st : State) : State :=
  { st with mem := memSet st.mem a.toNat v }

/-- Addresses a run-time write may not reach (20_memory R51, R54). -/
def isRom (a : Addr) : Bool := decide (Config.romBase ≤ a.toNat)

/-- `MemWrite(a, 1, v)` (20_memory R54). -/
def writeByte (a : Addr) (v : Byte) (st : State) : Result :=
  if isRom a then raise (.romWrite a) st else .next (storeByte a v st)

/-- `MemWrite(a, 2, v)`: high byte at `a`, then low byte at `a + 1` (20_memory R56). -/
def writeWord (a : Addr) (v : Word) (st : State) : Result :=
  andThen (writeByte a (hiByte v) st) (writeByte (a + 1) (loByte v))

/-! ## Registers -/

/-- A 16-bit register; D is A:B (10_state R20, R22). -/
def reg16 (r : Reg16) (st : State) : Word :=
  match r with
  | .d => joinBytes st.a st.b
  | .x => st.x
  | .y => st.y
  | .u => st.u
  | .s => st.s
  | .pc => st.pc

/-- Write a 16-bit register; D writes A and B (10_state R22). -/
def setReg16 (r : Reg16) (v : Word) (st : State) : State :=
  match r with
  | .d => { st with a := hiByte v, b := loByte v }
  | .x => { st with x := v }
  | .y => { st with y := v }
  | .u => { st with u := v }
  | .s => { st with s := v }
  | .pc => { st with pc := v }

/-- An 8-bit register (10_state R20). -/
def reg8 (r : Reg8) (st : State) : Byte :=
  match r with
  | .a => st.a
  | .b => st.b
  | .cc => st.cc
  | .dp => st.dp

/-- Write an 8-bit register. -/
def setReg8 (r : Reg8) (v : Byte) (st : State) : State :=
  match r with
  | .a => { st with a := v }
  | .b => { st with b := v }
  | .cc => { st with cc := v }
  | .dp => { st with dp := v }

/-- Write CC whole. -/
def setCC (v : Byte) (st : State) : State := { st with cc := v }

/-- The register a base selector names (40_effective_address R127). -/
def baseReg : IndexReg → Reg16
  | .x => .x
  | .y => .y
  | .u => .u
  | .s => .s

/-! ## Sets of addresses -/

/-- Put an address into a set kept by rising address. -/
def insertAddr (a : Addr) : List Addr → List Addr
  | [] => [a]
  | b :: rest => if a.toNat < b.toNat then a :: b :: rest
                 else if a = b then b :: rest else b :: insertAddr a rest

/-- Take an address out of a set. -/
def removeAddr (a : Addr) (l : List Addr) : List Addr := l.filter fun b => decide (b ≠ a)

/-! ## The stacks -/

/-- The two stacks (10_state R23). -/
inductive Stack where
  | s | u
deriving DecidableEq, Repr

/-- The pointer of a stack. -/
def stackReg : Stack → Reg16
  | .s => .s
  | .u => .u

/-- The other stack's pointer, `OSP` (45_transfer_stack R306). -/
def otherReg : Stack → Reg16
  | .s => .u
  | .u => .s

/-- Record an address a push has written (45_transfer_stack R300, 20_memory R69). -/
def touch (a : Addr) (st : State) : State :=
  { st with stackTouched := insertAddr a st.stackTouched }

/-- `Push8` (45_transfer_stack R300): the pointer stays decremented if the write faults. -/
def pushByte (k : Stack) (v : Byte) (st : State) : Result :=
  let p := reg16 (stackReg k) st - 1
  andThen (writeByte p v (setReg16 (stackReg k) p st)) fun t => .next (touch p t)

/-- Push bytes one after the other. -/
def pushBytes (k : Stack) : List Byte → State → Result
  | [], st => .next st
  | v :: vs, st => andThen (pushByte k v st) (pushBytes k vs)

/-- The bytes of `Push16`, low byte first (45_transfer_stack R301). -/
def wordBytes (v : Word) : List Byte := [loByte v, hiByte v]

/-- The bytes a push with mask `mm` pushes, in order (45_transfer_stack R306). -/
def maskBytes (k : Stack) (mm : Byte) (st : State) : List Byte :=
  (if mm.getLsbD 7 then wordBytes st.pc else []) ++
  (if mm.getLsbD 6 then wordBytes (reg16 (otherReg k) st) else []) ++
  (if mm.getLsbD 5 then wordBytes st.y else []) ++
  (if mm.getLsbD 4 then wordBytes st.x else []) ++
  (if mm.getLsbD 3 then [st.dp] else []) ++
  (if mm.getLsbD 2 then [st.b] else []) ++
  (if mm.getLsbD 1 then [st.a] else []) ++
  (if mm.getLsbD 0 then [st.cc] else [])

/-- A push with mask `mm` (45_transfer_stack R306). -/
def pushMask (k : Stack) (mm : Byte) (st : State) : Result :=
  pushBytes k (maskBytes k mm st) st

/-- `Push16` on S of a return address (46_control_transfer, section 4). -/
def pushWord (k : Stack) (v : Word) (st : State) : Result := pushBytes k (wordBytes v) st

/-- Move a stack pointer up by `n` bytes. -/
def advance (k : Stack) (n : Word) (st : State) : State :=
  setReg16 (stackReg k) (reg16 (stackReg k) st + n) st

/-- `Pull8` into a register (45_transfer_stack R302). -/
def pullReg8 (k : Stack) (r : Reg8) (st : State) : State :=
  setReg8 r (readByte st (reg16 (stackReg k) st)) (advance k 1 st)

/-- `Pull16` into a register (45_transfer_stack R303). -/
def pullReg16 (k : Stack) (r : Reg16) (st : State) : State :=
  setReg16 r (readWord st (reg16 (stackReg k) st)) (advance k 2 st)

/-- A step of a pull that is made only if its mask bit is 1. -/
def pullIf (c : Bool) (f : State → State) (st : State) : State := if c then f st else st

/-- A pull with mask `mm` (45_transfer_stack R307). -/
def pullMask (k : Stack) (mm : Byte) (st : State) : State :=
  st
  |> pullIf (mm.getLsbD 0) (pullReg8 k .cc)
  |> pullIf (mm.getLsbD 1) (pullReg8 k .a)
  |> pullIf (mm.getLsbD 2) (pullReg8 k .b)
  |> pullIf (mm.getLsbD 3) (pullReg8 k .dp)
  |> pullIf (mm.getLsbD 4) (pullReg16 k .x)
  |> pullIf (mm.getLsbD 5) (pullReg16 k .y)
  |> pullIf (mm.getLsbD 6) (pullReg16 k (otherReg k))
  |> pullIf (mm.getLsbD 7) (pullReg16 k .pc)

/-! ## Fetch -/

/-- The bytes at PC, as many as the longest instruction has (30_encoding R80, R81). Reading ahead is unobservable:
reads have no side effects (20_memory R52; log 7). -/
def fetchBytes (st : State) : List Byte :=
  (List.range Config.maxLength).map fun k => readByte st (st.pc + BitVec.ofNat 16 k)

/-- The start of an instruction of `n` bytes: it is counted, its bytes are consumed, and a step the host called leaves
`Paused` (60_exceptions R413, R424; 10_state R24). -/
def beginInstr (n : Nat) (st : State) : State :=
  { st with
    pc := st.pc + BitVec.ofNat 16 n
    instrCount := st.instrCount + 1
    runState := if st.runState = .running then .running else .paused }

/-- The fault of bytes at `first` that are no instruction (60_exceptions R401). -/
def decodeFault (first : Addr) : DecodeError → FaultInfo
  | .unknownOpcode op => .unknownOpcode .page1 op first
  | .illegalPostByte n pb => .illegalPostByte pb (first + BitVec.ofNat 16 n)
  | .illegalRegisterCode n pb => .illegalRegisterCode pb (first + BitVec.ofNat 16 n)

end Sys2Proof.Machine
end

