-- ==== Sys2Proof/Machine/Operands.lean ====
section
/-! DEFINITION. The effective-address unit and operand fetch (spec/40_effective_address.md). The instruction's bytes are
already consumed, so PC is the address after them (R140, R141, R450). -/

namespace Sys2Proof.Machine

/-- `,R+` and `,R++`: the address is R before the increment (R130, R131). -/
def postIncrement (r : IndexReg) (n : Word) (st : State) : Addr × State :=
  (reg16 (baseReg r) st, setReg16 (baseReg r) (reg16 (baseReg r) st + n) st)

/-- `,-R` and `,--R`: the address is R after the decrement (R132, R133). -/
def preDecrement (r : IndexReg) (n : Word) (st : State) : Addr × State :=
  let a := reg16 (baseReg r) st - n
  (a, setReg16 (baseReg r) a st)

/-- A complex sub-mode before indirection (R130 to R141). -/
def subModeAddr (m : SubMode) (st : State) : Addr × State :=
  match m with
  | .inc1 r => postIncrement r 1 st
  | .inc2 r => postIncrement r 2 st
  | .dec1 r => preDecrement r 1 st
  | .dec2 r => preDecrement r 2 st
  | .plain r => (reg16 (baseReg r) st, st)
  | .accB r => (reg16 (baseReg r) st + sext8 st.b, st)
  | .accA r => (reg16 (baseReg r) st + sext8 st.a, st)
  | .off8 r o => (reg16 (baseReg r) st + sext8 o, st)
  | .off16 r o => (reg16 (baseReg r) st + o, st)
  | .accD r => (reg16 (baseReg r) st + reg16 .d st, st)
  | .pc8 o => (st.pc + sext8 o, st)
  | .pc16 o => (st.pc + o, st)

/-- `EA(IDX)` (R124, R128, R142). -/
def indexedAddr (p : Indexed) (st : State) : Addr × State :=
  match p with
  | .simple r o => (reg16 (baseReg r) st + sext5 o, st)
  | .complex m indirect =>
    let e := subModeAddr m st
    if indirect then (readWord e.2 e.1, e.2) else e

/-- `EA(mode)`: the address, and the state with the base register updated (R120, R122, R123, R144). -/
def ea (m : MemMode) (st : State) : Addr × State :=
  match m with
  | .dir dd => (joinBytes st.dp dd, st)
  | .ext a => (a, st)
  | .idx p => indexedAddr p st

/-- `Operand8(mode)` (R121, R125). -/
def operand8 (m : Src8) (st : State) : Byte × State :=
  match m with
  | .imm ii => (ii, st)
  | .mem m => let e := ea m st
              (readByte e.2 e.1, e.2)

/-- `Operand16(mode)` (R121, R126). -/
def operand16 (m : Src16) (st : State) : Word × State :=
  match m with
  | .imm w => (w, st)
  | .mem m => let e := ea m st
              (readWord e.2 e.1, e.2)

end Sys2Proof.Machine
end

