-- ==== Sys2Proof/Machine/Arith16.lean ====
section
/-! DEFINITION. 16-bit arithmetic (spec/42_arith_16bit.md). -/

namespace Sys2Proof.Machine

/-- `m <- Operand16(mode); r <- sub16(R, m)`, the result discarded. -/
def cmp16 (r : Reg16) (m : Src16) (st : State) : Result :=
  let o := operand16 m st
  .next (setCC (sub16 (reg16 r o.2) o.1 o.2.cc).cc o.2)

/-- `m <- Operand16(mode)`, then an ALU function of D and `m`, its result into D. -/
def aluD (f : Word → Word → Byte → Alu 16) (m : Src16) (st : State) : Result :=
  let o := operand16 m st
  let res := f (reg16 .d o.2) o.1 o.2.cc
  .next (setReg16 .d res.value (setCC res.cc o.2))

/-- ADDD (R203). -/
def execAddd (m : Src16) (st : State) : Result := aluD add16 m st

/-- SUBD (R204). -/
def execSubd (m : Src16) (st : State) : Result := aluD sub16 m st

/-- CMPD (R205). -/
def execCmpd (m : Src16) (st : State) : Result := cmp16 .d m st

/-- CMPX (R206). -/
def execCmpx (m : Src16) (st : State) : Result := cmp16 .x m st

/-- CMPY (R207). -/
def execCmpy (m : Src16) (st : State) : Result := cmp16 .y m st

/-- CMPU (R208). -/
def execCmpu (m : Src16) (st : State) : Result := cmp16 .u m st

/-- CMPS (R209). -/
def execCmps (m : Src16) (st : State) : Result := cmp16 .s m st

end Sys2Proof.Machine
end

