-- ==== Sys2Proof/Machine/Arith8.lean ====
section
/-! DEFINITION. 8-bit arithmetic and logic (spec/41_arith_logic_8bit.md). -/

namespace Sys2Proof.Machine

/-- `m <- Operand8(mode)`, then an ALU function of an accumulator and `m`, its result into the accumulator. -/
def alu8 (r : Reg8) (f : Byte → Byte → Byte → Alu 8) (m : Src8) (st : State) : Result :=
  let o := operand8 m st
  let res := f (reg8 r o.2) o.1 o.2.cc
  .next (setReg8 r res.value (setCC res.cc o.2))

/-- The same with the result discarded: only the flags are kept. -/
def test8 (r : Reg8) (f : Byte → Byte → Byte → Alu 8) (m : Src8) (st : State) : Result :=
  let o := operand8 m st
  .next (setCC (f (reg8 r o.2) o.1 o.2.cc).cc o.2)

/-- ADDA (R160). -/
def execAdda (m : Src8) (st : State) : Result :=
  alu8 .a (fun a m cc => add8 a m false cc) m st

/-- ADDB (R161). -/
def execAddb (m : Src8) (st : State) : Result :=
  alu8 .b (fun a m cc => add8 a m false cc) m st

/-- ADCA (R162). -/
def execAdca (m : Src8) (st : State) : Result :=
  alu8 .a (fun a m cc => add8 a m (getFlag .c cc) cc) m st

/-- ADCB (R163). -/
def execAdcb (m : Src8) (st : State) : Result :=
  alu8 .b (fun a m cc => add8 a m (getFlag .c cc) cc) m st

/-- SUBA (R164). -/
def execSuba (m : Src8) (st : State) : Result :=
  alu8 .a (fun a m cc => sub8 a m false cc) m st

/-- SUBB (R165). -/
def execSubb (m : Src8) (st : State) : Result :=
  alu8 .b (fun a m cc => sub8 a m false cc) m st

/-- SBCA (R166). -/
def execSbca (m : Src8) (st : State) : Result :=
  alu8 .a (fun a m cc => sub8 a m (getFlag .c cc) cc) m st

/-- SBCB (R167). -/
def execSbcb (m : Src8) (st : State) : Result :=
  alu8 .b (fun a m cc => sub8 a m (getFlag .c cc) cc) m st

/-- CMPA (R168). -/
def execCmpa (m : Src8) (st : State) : Result :=
  test8 .a (fun a m cc => sub8 a m false cc) m st

/-- CMPB (R169). -/
def execCmpb (m : Src8) (st : State) : Result :=
  test8 .b (fun a m cc => sub8 a m false cc) m st

/-- ANDA (R170). -/
def execAnda (m : Src8) (st : State) : Result :=
  alu8 .a (fun a m cc => logic8 (a &&& m) cc) m st

/-- ANDB (R171). -/
def execAndb (m : Src8) (st : State) : Result :=
  alu8 .b (fun a m cc => logic8 (a &&& m) cc) m st

/-- BITA (R172). -/
def execBita (m : Src8) (st : State) : Result :=
  test8 .a (fun a m cc => logic8 (a &&& m) cc) m st

/-- BITB (R173). -/
def execBitb (m : Src8) (st : State) : Result :=
  test8 .b (fun a m cc => logic8 (a &&& m) cc) m st

/-- EORA (R174). -/
def execEora (m : Src8) (st : State) : Result :=
  alu8 .a (fun a m cc => logic8 (a ^^^ m) cc) m st

/-- EORB (R175). -/
def execEorb (m : Src8) (st : State) : Result :=
  alu8 .b (fun a m cc => logic8 (a ^^^ m) cc) m st

/-- ORA (R176). -/
def execOra (m : Src8) (st : State) : Result :=
  alu8 .a (fun a m cc => logic8 (a ||| m) cc) m st

/-- ORB (R177). -/
def execOrb (m : Src8) (st : State) : Result :=
  alu8 .b (fun a m cc => logic8 (a ||| m) cc) m st

/-- MUL: D = A * B, unsigned (R178). -/
def execMul (st : State) : Result :=
  let res := mul8 st.a st.b st.cc
  .next (setReg16 .d res.value (setCC res.cc st))

/-- DAA (R179). -/
def execDaa (st : State) : Result :=
  let res := daa8 st.a st.cc
  .next (setReg8 .a res.value (setCC res.cc st))

end Sys2Proof.Machine
end

