-- ==== Sys2Proof/Machine/Control.lean ====
section
/-! DEFINITION. Branches, calls, jumps and return (spec/46_control_transfer.md). -/

namespace Sys2Proof.Machine

/-- `PC <- t` (R330: PC is already the address of the next sequential instruction). -/
def jumpTo (t : Addr) (st : State) : State := setReg16 .pc t st

/-- A branch with an offset of 16 bits: taken iff its predicate holds (R330, R331). -/
def branch (k : Cond) (off : Word) (st : State) : Result :=
  if condHolds k st.cc then .next (jumpTo (st.pc + off) st) else .next st

/-- Push the return address on S, then go to `t` (section 4): if the push faults, PC is still the return address. -/
def callTo (t : Addr) (st : State) : Result :=
  andThen (pushWord .s st.pc st) fun s' => .next (jumpTo t s')

/-- BRA (R332). -/
def execBra (o : Byte) (st : State) : Result := branch .ra (sext8 o) st

/-- BRN (R333). -/
def execBrn (o : Byte) (st : State) : Result := branch .rn (sext8 o) st

/-- BHI (R334). -/
def execBhi (o : Byte) (st : State) : Result := branch .hi (sext8 o) st

/-- BLS (R335). -/
def execBls (o : Byte) (st : State) : Result := branch .ls (sext8 o) st

/-- BCC (R336). -/
def execBcc (o : Byte) (st : State) : Result := branch .cc (sext8 o) st

/-- BCS (R337). -/
def execBcs (o : Byte) (st : State) : Result := branch .cs (sext8 o) st

/-- BNE (R338). -/
def execBne (o : Byte) (st : State) : Result := branch .ne (sext8 o) st

/-- BEQ (R339). -/
def execBeq (o : Byte) (st : State) : Result := branch .eq (sext8 o) st

/-- BVC (R340). -/
def execBvc (o : Byte) (st : State) : Result := branch .vc (sext8 o) st

/-- BVS (R341). -/
def execBvs (o : Byte) (st : State) : Result := branch .vs (sext8 o) st

/-- BPL (R342). -/
def execBpl (o : Byte) (st : State) : Result := branch .pl (sext8 o) st

/-- BMI (R343). -/
def execBmi (o : Byte) (st : State) : Result := branch .mi (sext8 o) st

/-- BGE (R344). -/
def execBge (o : Byte) (st : State) : Result := branch .ge (sext8 o) st

/-- BLT (R345). -/
def execBlt (o : Byte) (st : State) : Result := branch .lt (sext8 o) st

/-- BGT (R346). -/
def execBgt (o : Byte) (st : State) : Result := branch .gt (sext8 o) st

/-- BLE (R347). -/
def execBle (o : Byte) (st : State) : Result := branch .le (sext8 o) st

/-- LBRA (R348). -/
def execLbra (o : Word) (st : State) : Result := branch .ra o st

/-- LBRN (R349). -/
def execLbrn (o : Word) (st : State) : Result := branch .rn o st

/-- LBHI (R350). -/
def execLbhi (o : Word) (st : State) : Result := branch .hi o st

/-- LBLS (R351). -/
def execLbls (o : Word) (st : State) : Result := branch .ls o st

/-- LBCC (R352). -/
def execLbcc (o : Word) (st : State) : Result := branch .cc o st

/-- LBCS (R353). -/
def execLbcs (o : Word) (st : State) : Result := branch .cs o st

/-- LBNE (R354). -/
def execLbne (o : Word) (st : State) : Result := branch .ne o st

/-- LBEQ (R355). -/
def execLbeq (o : Word) (st : State) : Result := branch .eq o st

/-- LBVC (R356). -/
def execLbvc (o : Word) (st : State) : Result := branch .vc o st

/-- LBVS (R357). -/
def execLbvs (o : Word) (st : State) : Result := branch .vs o st

/-- LBPL (R358). -/
def execLbpl (o : Word) (st : State) : Result := branch .pl o st

/-- LBMI (R359). -/
def execLbmi (o : Word) (st : State) : Result := branch .mi o st

/-- LBGE (R360). -/
def execLbge (o : Word) (st : State) : Result := branch .ge o st

/-- LBLT (R361). -/
def execLblt (o : Word) (st : State) : Result := branch .lt o st

/-- LBGT (R362). -/
def execLbgt (o : Word) (st : State) : Result := branch .gt o st

/-- LBLE (R363). -/
def execLble (o : Word) (st : State) : Result := branch .le o st

/-- BSR (R364). -/
def execBsr (o : Byte) (st : State) : Result := callTo (st.pc + sext8 o) st

/-- LBSR (R365). -/
def execLbsr (o : Word) (st : State) : Result := callTo (st.pc + o) st

/-- JMP: the effective address is the target (R366). -/
def execJmp (m : MemMode) (st : State) : Result :=
  let e := ea m st
  .next (jumpTo e.1 e.2)

/-- JSR: the effective address is computed before the push (R367). -/
def execJsr (m : MemMode) (st : State) : Result :=
  let e := ea m st
  callTo e.1 e.2

/-- RTS (R368). -/
def execRts (st : State) : Result := .next (pullReg16 .s .pc st)

end Sys2Proof.Machine
end

