-- ==== Sys2Proof/Machine/LoadStore.lean ====
section
/-! DEFINITION. Loads, stores and load-effective-address (spec/44_load_store_lea.md). -/

namespace Sys2Proof.Machine

/-- `m <- Operand8(mode); setNZ8(m); R <- m` (R270). -/
def load8 (r : Reg8) (m : Src8) (st : State) : Result :=
  let o := operand8 m st
  .next (setReg8 r o.1 (setCC (setNZ o.1 o.2.cc) o.2))

/-- `m <- Operand16(mode); setNZ16(m); R <- m` (R270). -/
def load16 (r : Reg16) (m : Src16) (st : State) : Result :=
  let o := operand16 m st
  .next (setReg16 r o.1 (setCC (setNZ o.1 o.2.cc) o.2))

/-- `ea <- EA(mode); v <- R; setNZ8(v); MemWrite(ea, 1, v)`: R is read after the address is computed
(40_effective_address R144), the flags are written before the memory. -/
def store8 (r : Reg8) (m : MemMode) (st : State) : Result :=
  let e := ea m st
  let v := reg8 r e.2
  writeByte e.1 v (setCC (setNZ v e.2.cc) e.2)

/-- The same for a word (R270, 20_memory R56). -/
def store16 (r : Reg16) (m : MemMode) (st : State) : Result :=
  let e := ea m st
  let v := reg16 r e.2
  writeWord e.1 v (setCC (setNZ v e.2.cc) e.2)

/-- LDA (R271). -/
def execLda (m : Src8) (st : State) : Result := load8 .a m st

/-- LDB (R272). -/
def execLdb (m : Src8) (st : State) : Result := load8 .b m st

/-- LDD (R273). -/
def execLdd (m : Src16) (st : State) : Result := load16 .d m st

/-- LDX (R274). -/
def execLdx (m : Src16) (st : State) : Result := load16 .x m st

/-- LDY (R275). -/
def execLdy (m : Src16) (st : State) : Result := load16 .y m st

/-- LDU (R276). -/
def execLdu (m : Src16) (st : State) : Result := load16 .u m st

/-- LDS (R277). -/
def execLds (m : Src16) (st : State) : Result := load16 .s m st

/-- STA (R278). -/
def execSta (m : MemMode) (st : State) : Result := store8 .a m st

/-- STB (R279). -/
def execStb (m : MemMode) (st : State) : Result := store8 .b m st

/-- STD (R280). -/
def execStd (m : MemMode) (st : State) : Result := store16 .d m st

/-- STX (R281). -/
def execStx (m : MemMode) (st : State) : Result := store16 .x m st

/-- STY (R282). -/
def execSty (m : MemMode) (st : State) : Result := store16 .y m st

/-- STU (R283). -/
def execStu (m : MemMode) (st : State) : Result := store16 .u m st

/-- STS (R284). -/
def execSts (m : MemMode) (st : State) : Result := store16 .s m st

/-- `ea <- EA(IDX); setNZ16(ea); R <- ea`: the register is written after the address's side effects (R289). -/
def leaFlags (r : Reg16) (p : Indexed) (st : State) : Result :=
  let e := indexedAddr p st
  .next (setReg16 r e.1 (setCC (setNZ e.1 e.2.cc) e.2))

/-- `ea <- EA(IDX); R <- ea`, no flags (R289). -/
def leaPlain (r : Reg16) (p : Indexed) (st : State) : Result :=
  let e := indexedAddr p st
  .next (setReg16 r e.1 e.2)

/-- LEAX (R285). -/
def execLeax (p : Indexed) (st : State) : Result := leaFlags .x p st

/-- LEAY (R286). -/
def execLeay (p : Indexed) (st : State) : Result := leaFlags .y p st

/-- LEAS (R287). -/
def execLeas (p : Indexed) (st : State) : Result := leaPlain .s p st

/-- LEAU (R288). -/
def execLeau (p : Indexed) (st : State) : Result := leaPlain .u p st

end Sys2Proof.Machine
end

