-- ==== Sys2Proof/Machine/Pages.lean ====
section
/-! DEFINITION. The two page bytes before an empty slot (spec/30_encoding.md R82, R83): the step that reads one more
byte finds no instruction there. -/

namespace Sys2Proof.Machine

/-- 0x10 before an opcode byte whose page-2 slot is empty (30_encoding R82, R83, R108). -/
def execPrefixPage2 (op : Byte) (st : State) : Result :=
  raise (.unknownOpcode .page2 op (st.pc - 2)) st

/-- 0x11 before an opcode byte whose page-3 slot is empty (30_encoding R82, R83, R108). -/
def execPrefixPage3 (op : Byte) (st : State) : Result :=
  raise (.unknownOpcode .page3 op (st.pc - 2)) st

end Sys2Proof.Machine
end

