-- ==== Sys2Proof/Machine/Placeholders.lean ====
section
/-! DEFINITION. SWI SWI2 SWI3 RTI CWAI SYNC under the three values of PLACEHOLDER_BEHAVIOUR
(spec/47_system_placeholders.md). -/

namespace Sys2Proof.Machine

/-- A placeholder of `n` bytes whose `mc6809` meaning is `act` (R380). -/
def placeholder (which : Placeholder) (n : Word) (act : State → Result) (st : State) : Result :=
  match st.launch.placeholder with
  | .fault => raise (.placeholderInstruction which (st.pc - n)) st
  | .nop => .next st
  | .mc6809 => act st

/-- Set E, push every register on S, and go to the word at a vector after `mask` (R381 to R383). -/
def softInterrupt (vector : Addr) (mask : Byte → Byte) (st : State) : Result :=
  let st1 := setCC (setFlag .e true st.cc) st
  andThen (pushMask .s 0xFF#8 st1) fun st2 =>
    .next (setReg16 .pc (readWord st2 vector) (setCC (mask st2.cc) st2))

/-- The return of R384: the pulled CC's E says how much else was pushed. -/
def interruptReturn (st : State) : State :=
  let st1 := pullReg8 .s .cc st
  if getFlag .e st1.cc then pullMask .s 0xFE#8 st1 else pullReg16 .s .pc st1

/-- SWI: masks with I and F (R381). -/
def execSwi (st : State) : Result :=
  placeholder .swi 1 (softInterrupt Config.swiVector fun cc => cc |> setFlag .i true |> setFlag .f true) st

/-- SWI2 (R382). -/
def execSwi2 (st : State) : Result := placeholder .swi2 2 (softInterrupt Config.swi2Vector id) st

/-- SWI3 (R383). -/
def execSwi3 (st : State) : Result := placeholder .swi3 2 (softInterrupt Config.swi3Vector id) st

/-- RTI (R384). -/
def execRti (st : State) : Result := placeholder .rti 1 (fun s' => .next (interruptReturn s')) st

/-- CWAI: its byte is not used, and it faults under `mc6809` too (R385). -/
def execCwai (_ii : Byte) (st : State) : Result :=
  placeholder .cwai 2 (raise (.placeholderInstruction .cwai (st.pc - 2))) st

/-- SYNC: it faults under `mc6809` too (R386). -/
def execSync (st : State) : Result :=
  placeholder .sync 1 (raise (.placeholderInstruction .sync (st.pc - 1))) st

end Sys2Proof.Machine
end

