-- ==== Sys2Proof/Machine/Transfer.lean ====
section
/-! DEFINITION. Register transfer, stack and condition-code instructions (spec/45_transfer_stack.md). -/

namespace Sys2Proof.Machine

/-- TFR: copy the first register to the second (R308). PC reads as the address after the post-byte (D24). -/
def execTfr (p : RegPair) (st : State) : Result :=
  match p with
  | .wide r1 r2 => .next (setReg16 r2 (reg16 r1 st) st)
  | .narrow r1 r2 => .next (setReg8 r2 (reg8 r1 st) st)

/-- EXG: both registers are read before either is written (R309). -/
def execExg (p : RegPair) (st : State) : Result :=
  match p with
  | .wide r1 r2 => .next (setReg16 r2 (reg16 r1 st) (setReg16 r1 (reg16 r2 st) st))
  | .narrow r1 r2 => .next (setReg8 r2 (reg8 r1 st) (setReg8 r1 (reg8 r2 st) st))

/-- SEX: sign-extend B into D (R310). -/
def execSex (st : State) : Result :=
  let v := sext8 st.b
  .next (setReg16 .d v (setCC (setNZ v st.cc) st))

/-- ABX: X + B, B unsigned, no flags (R311). -/
def execAbx (st : State) : Result :=
  .next (setReg16 .x (st.x + st.b.zeroExtend 16) st)

/-- PSHS (R312). -/
def execPshs (mm : Byte) (st : State) : Result := pushMask .s mm st

/-- PULS (R313). -/
def execPuls (mm : Byte) (st : State) : Result := .next (pullMask .s mm st)

/-- PSHU (R314). -/
def execPshu (mm : Byte) (st : State) : Result := pushMask .u mm st

/-- PULU (R315). -/
def execPulu (mm : Byte) (st : State) : Result := .next (pullMask .u mm st)

/-- ANDCC (R316). -/
def execAndcc (ii : Byte) (st : State) : Result := .next (setCC (st.cc &&& ii) st)

/-- ORCC (R317). -/
def execOrcc (ii : Byte) (st : State) : Result := .next (setCC (st.cc ||| ii) st)

/-- NOP (R318). -/
def execNop (st : State) : Result := .next st

end Sys2Proof.Machine
end

