-- ==== Sys2Proof/Machine/Unary.lean ====
section
/-! DEFINITION. Single-operand instructions on memory, A and B (spec/43_unary_shift.md). -/

namespace Sys2Proof.Machine

/-- Memory form: the flags are written before the byte (R231). -/
def unaryMem (f : Byte → Byte → Alu 8) (m : MemMode) (st : State) : Result :=
  let e := ea m st
  let res := f (readByte e.2 e.1) e.2.cc
  writeByte e.1 res.value (setCC res.cc e.2)

/-- Accumulator form (R231). -/
def unaryAcc (r : Reg8) (f : Byte → Byte → Alu 8) (st : State) : Result :=
  let res := f (reg8 r st) st.cc
  .next (setReg8 r res.value (setCC res.cc st))

/-- TST's accumulator form: flags only (R224, R231). -/
def tstAcc (r : Reg8) (st : State) : Result :=
  .next (setCC (tst8 (reg8 r st) st.cc).cc st)

/-- NEG of a memory byte (R232). -/
def execNeg (m : MemMode) (st : State) : Result := unaryMem neg8 m st

/-- NEGA (R233). -/
def execNega (st : State) : Result := unaryAcc .a neg8 st

/-- NEGB (R234). -/
def execNegb (st : State) : Result := unaryAcc .b neg8 st

/-- COM of a memory byte (R235). -/
def execCom (m : MemMode) (st : State) : Result := unaryMem com8 m st

/-- COMA (R236). -/
def execComa (st : State) : Result := unaryAcc .a com8 st

/-- COMB (R237). -/
def execComb (st : State) : Result := unaryAcc .b com8 st

/-- LSR of a memory byte (R238). -/
def execLsr (m : MemMode) (st : State) : Result := unaryMem lsr8 m st

/-- LSRA (R239). -/
def execLsra (st : State) : Result := unaryAcc .a lsr8 st

/-- LSRB (R240). -/
def execLsrb (st : State) : Result := unaryAcc .b lsr8 st

/-- ROR of a memory byte (R241). -/
def execRor (m : MemMode) (st : State) : Result := unaryMem ror8 m st

/-- RORA (R242). -/
def execRora (st : State) : Result := unaryAcc .a ror8 st

/-- RORB (R243). -/
def execRorb (st : State) : Result := unaryAcc .b ror8 st

/-- ASR of a memory byte (R244). -/
def execAsr (m : MemMode) (st : State) : Result := unaryMem asr8 m st

/-- ASRA (R245). -/
def execAsra (st : State) : Result := unaryAcc .a asr8 st

/-- ASRB (R246). -/
def execAsrb (st : State) : Result := unaryAcc .b asr8 st

/-- ASL of a memory byte (R247). -/
def execAsl (m : MemMode) (st : State) : Result := unaryMem asl8 m st

/-- ASLA (R248). -/
def execAsla (st : State) : Result := unaryAcc .a asl8 st

/-- ASLB (R249). -/
def execAslb (st : State) : Result := unaryAcc .b asl8 st

/-- ROL of a memory byte (R250). -/
def execRol (m : MemMode) (st : State) : Result := unaryMem rol8 m st

/-- ROLA (R251). -/
def execRola (st : State) : Result := unaryAcc .a rol8 st

/-- ROLB (R252). -/
def execRolb (st : State) : Result := unaryAcc .b rol8 st

/-- DEC of a memory byte (R253). -/
def execDec (m : MemMode) (st : State) : Result := unaryMem dec8 m st

/-- DECA (R254). -/
def execDeca (st : State) : Result := unaryAcc .a dec8 st

/-- DECB (R255). -/
def execDecb (st : State) : Result := unaryAcc .b dec8 st

/-- INC of a memory byte (R256). -/
def execInc (m : MemMode) (st : State) : Result := unaryMem inc8 m st

/-- INCA (R257). -/
def execInca (st : State) : Result := unaryAcc .a inc8 st

/-- INCB (R258). -/
def execIncb (st : State) : Result := unaryAcc .b inc8 st

/-- TST of a memory byte: no write (R259). -/
def execTst (m : MemMode) (st : State) : Result :=
  let e := ea m st
  .next (setCC (tst8 (readByte e.2 e.1) e.2.cc).cc e.2)

/-- TSTA (R260). -/
def execTsta (st : State) : Result := tstAcc .a st

/-- TSTB (R261). -/
def execTstb (st : State) : Result := tstAcc .b st

/-- CLR of a memory byte: no read (R262). -/
def execClr (m : MemMode) (st : State) : Result :=
  let e := ea m st
  writeByte e.1 (clr8 e.2.cc).value (setCC (clr8 e.2.cc).cc e.2)

/-- CLRA (R263). -/
def execClra (st : State) : Result := unaryAcc .a (fun _ cc => clr8 cc) st

/-- CLRB (R264). -/
def execClrb (st : State) : Result := unaryAcc .b (fun _ cc => clr8 cc) st

end Sys2Proof.Machine
end

