-- ==== Sys2Proof/Machine/Dispatch.lean ====
section
/-! DEFINITION. One arm per constructor of `Instr`, each one call of that instruction's meaning. -/

namespace Sys2Proof.Machine

def exec (i : Instr) (s : State) : Host.Outcome State Fault Refusal :=
  match i with
  | .prefixPage2 op => Sys2Proof.Machine.execPrefixPage2 op s
  | .prefixPage3 op => Sys2Proof.Machine.execPrefixPage3 op s
  | .neg m => Sys2Proof.Machine.execNeg m s
  | .com m => Sys2Proof.Machine.execCom m s
  | .lsr m => Sys2Proof.Machine.execLsr m s
  | .ror m => Sys2Proof.Machine.execRor m s
  | .asr m => Sys2Proof.Machine.execAsr m s
  | .asl m => Sys2Proof.Machine.execAsl m s
  | .rol m => Sys2Proof.Machine.execRol m s
  | .dec m => Sys2Proof.Machine.execDec m s
  | .inc m => Sys2Proof.Machine.execInc m s
  | .tst m => Sys2Proof.Machine.execTst m s
  | .jmp m => Sys2Proof.Machine.execJmp m s
  | .clr m => Sys2Proof.Machine.execClr m s
  | .nop => Sys2Proof.Machine.execNop s
  | .sync => Sys2Proof.Machine.execSync s
  | .lbra o => Sys2Proof.Machine.execLbra o s
  | .lbsr o => Sys2Proof.Machine.execLbsr o s
  | .daa => Sys2Proof.Machine.execDaa s
  | .orcc ii => Sys2Proof.Machine.execOrcc ii s
  | .andcc ii => Sys2Proof.Machine.execAndcc ii s
  | .sex => Sys2Proof.Machine.execSex s
  | .exg p => Sys2Proof.Machine.execExg p s
  | .tfr p => Sys2Proof.Machine.execTfr p s
  | .bra o => Sys2Proof.Machine.execBra o s
  | .brn o => Sys2Proof.Machine.execBrn o s
  | .bhi o => Sys2Proof.Machine.execBhi o s
  | .bls o => Sys2Proof.Machine.execBls o s
  | .bcc o => Sys2Proof.Machine.execBcc o s
  | .bcs o => Sys2Proof.Machine.execBcs o s
  | .bne o => Sys2Proof.Machine.execBne o s
  | .beq o => Sys2Proof.Machine.execBeq o s
  | .bvc o => Sys2Proof.Machine.execBvc o s
  | .bvs o => Sys2Proof.Machine.execBvs o s
  | .bpl o => Sys2Proof.Machine.execBpl o s
  | .bmi o => Sys2Proof.Machine.execBmi o s
  | .bge o => Sys2Proof.Machine.execBge o s
  | .blt o => Sys2Proof.Machine.execBlt o s
  | .bgt o => Sys2Proof.Machine.execBgt o s
  | .ble o => Sys2Proof.Machine.execBle o s
  | .leax p => Sys2Proof.Machine.execLeax p s
  | .leay p => Sys2Proof.Machine.execLeay p s
  | .leas p => Sys2Proof.Machine.execLeas p s
  | .leau p => Sys2Proof.Machine.execLeau p s
  | .pshs mm => Sys2Proof.Machine.execPshs mm s
  | .puls mm => Sys2Proof.Machine.execPuls mm s
  | .pshu mm => Sys2Proof.Machine.execPshu mm s
  | .pulu mm => Sys2Proof.Machine.execPulu mm s
  | .rts => Sys2Proof.Machine.execRts s
  | .abx => Sys2Proof.Machine.execAbx s
  | .rti => Sys2Proof.Machine.execRti s
  | .cwai ii => Sys2Proof.Machine.execCwai ii s
  | .mul => Sys2Proof.Machine.execMul s
  | .swi => Sys2Proof.Machine.execSwi s
  | .nega => Sys2Proof.Machine.execNega s
  | .coma => Sys2Proof.Machine.execComa s
  | .lsra => Sys2Proof.Machine.execLsra s
  | .rora => Sys2Proof.Machine.execRora s
  | .asra => Sys2Proof.Machine.execAsra s
  | .asla => Sys2Proof.Machine.execAsla s
  | .rola => Sys2Proof.Machine.execRola s
  | .deca => Sys2Proof.Machine.execDeca s
  | .inca => Sys2Proof.Machine.execInca s
  | .tsta => Sys2Proof.Machine.execTsta s
  | .clra => Sys2Proof.Machine.execClra s
  | .negb => Sys2Proof.Machine.execNegb s
  | .comb => Sys2Proof.Machine.execComb s
  | .lsrb => Sys2Proof.Machine.execLsrb s
  | .rorb => Sys2Proof.Machine.execRorb s
  | .asrb => Sys2Proof.Machine.execAsrb s
  | .aslb => Sys2Proof.Machine.execAslb s
  | .rolb => Sys2Proof.Machine.execRolb s
  | .decb => Sys2Proof.Machine.execDecb s
  | .incb => Sys2Proof.Machine.execIncb s
  | .tstb => Sys2Proof.Machine.execTstb s
  | .clrb => Sys2Proof.Machine.execClrb s
  | .suba m => Sys2Proof.Machine.execSuba m s
  | .cmpa m => Sys2Proof.Machine.execCmpa m s
  | .sbca m => Sys2Proof.Machine.execSbca m s
  | .subd m => Sys2Proof.Machine.execSubd m s
  | .anda m => Sys2Proof.Machine.execAnda m s
  | .bita m => Sys2Proof.Machine.execBita m s
  | .lda m => Sys2Proof.Machine.execLda m s
  | .eora m => Sys2Proof.Machine.execEora m s
  | .adca m => Sys2Proof.Machine.execAdca m s
  | .ora m => Sys2Proof.Machine.execOra m s
  | .adda m => Sys2Proof.Machine.execAdda m s
  | .cmpx m => Sys2Proof.Machine.execCmpx m s
  | .bsr o => Sys2Proof.Machine.execBsr o s
  | .ldx m => Sys2Proof.Machine.execLdx m s
  | .sta m => Sys2Proof.Machine.execSta m s
  | .jsr m => Sys2Proof.Machine.execJsr m s
  | .stx m => Sys2Proof.Machine.execStx m s
  | .subb m => Sys2Proof.Machine.execSubb m s
  | .cmpb m => Sys2Proof.Machine.execCmpb m s
  | .sbcb m => Sys2Proof.Machine.execSbcb m s
  | .addd m => Sys2Proof.Machine.execAddd m s
  | .andb m => Sys2Proof.Machine.execAndb m s
  | .bitb m => Sys2Proof.Machine.execBitb m s
  | .ldb m => Sys2Proof.Machine.execLdb m s
  | .eorb m => Sys2Proof.Machine.execEorb m s
  | .adcb m => Sys2Proof.Machine.execAdcb m s
  | .orb m => Sys2Proof.Machine.execOrb m s
  | .addb m => Sys2Proof.Machine.execAddb m s
  | .ldd m => Sys2Proof.Machine.execLdd m s
  | .ldu m => Sys2Proof.Machine.execLdu m s
  | .stb m => Sys2Proof.Machine.execStb m s
  | .std m => Sys2Proof.Machine.execStd m s
  | .stu m => Sys2Proof.Machine.execStu m s
  | .lbrn o => Sys2Proof.Machine.execLbrn o s
  | .lbhi o => Sys2Proof.Machine.execLbhi o s
  | .lbls o => Sys2Proof.Machine.execLbls o s
  | .lbcc o => Sys2Proof.Machine.execLbcc o s
  | .lbcs o => Sys2Proof.Machine.execLbcs o s
  | .lbne o => Sys2Proof.Machine.execLbne o s
  | .lbeq o => Sys2Proof.Machine.execLbeq o s
  | .lbvc o => Sys2Proof.Machine.execLbvc o s
  | .lbvs o => Sys2Proof.Machine.execLbvs o s
  | .lbpl o => Sys2Proof.Machine.execLbpl o s
  | .lbmi o => Sys2Proof.Machine.execLbmi o s
  | .lbge o => Sys2Proof.Machine.execLbge o s
  | .lblt o => Sys2Proof.Machine.execLblt o s
  | .lbgt o => Sys2Proof.Machine.execLbgt o s
  | .lble o => Sys2Proof.Machine.execLble o s
  | .swi2 => Sys2Proof.Machine.execSwi2 s
  | .cmpd m => Sys2Proof.Machine.execCmpd m s
  | .cmpy m => Sys2Proof.Machine.execCmpy m s
  | .ldy m => Sys2Proof.Machine.execLdy m s
  | .sty m => Sys2Proof.Machine.execSty m s
  | .lds m => Sys2Proof.Machine.execLds m s
  | .sts m => Sys2Proof.Machine.execSts m s
  | .swi3 => Sys2Proof.Machine.execSwi3 s
  | .cmpu m => Sys2Proof.Machine.execCmpu m s
  | .cmps m => Sys2Proof.Machine.execCmps m s

end Sys2Proof.Machine
end

