-- ==== Sys2Proof/Machine/Controller.lean ====
section
/-! DEFINITION. The step controller: `step()`, a turn of the run loop, and the host's calls
(spec/60_exceptions.md R406, R410 to R413, R420 to R424; spec/70_reset_and_hazards.md R440, R447). -/

namespace Sys2Proof.Machine

/-! ## step() -/

/-- Normal termination: nothing executed, nothing changed but the controller's own state (60_exceptions R410). -/
def terminate (st : State) : State :=
  stopWith (.terminated st.pc st.instrCount st.launch.endLine) st

/-- What a `step()` in `Stopped` answers: the outcome that stopped the run again, nothing changed, and nothing at all
after a `stop()` (60_exceptions R404, R410, R420). -/
def reportAgain (st : State) : Result :=
  match st.report with
  | some (.fault info) => .fault (faultOf st info)
  | some (.terminated _ _ _) => .next st
  | none => .next st

/-- Fetch, decode and execute the instruction at PC; `first` of 60_exceptions R413 is the PC before. -/
def runInstr (st : State) : Result :=
  match decode (fetchBytes st) with
  | .ok (i, n) => exec i (beginInstr n st)
  | .error e => raise (decodeFault st.pc e) (beginInstr (errorLength e) st)

/-- The boundary tests in their order, then the instruction (60_exceptions R406, R413). -/
def boundary (st : State) : Result :=
  if st.launch.progEnd ≤ st.pc.toNat then .next (terminate st)
  else if st.pc.toNat < st.launch.progStart.toNat then raise (.pcBeforeStart st.pc) st
  else if st.launch.instrCeiling ≤ st.instrCount then raise (.budgetExceeded st.instrCount) st
  else runInstr st

/-- `step()` (60_exceptions R413). -/
def stepCall (st : State) : Result :=
  match st.runState with
  | .stopped => reportAgain st
  | .idle => boundary st
  | .paused => boundary st
  | .running => boundary st

/-! ## run() -/

/-- One turn of the loop of 60_exceptions R421, taken while `Running`: stop flag, pause flag, breakpoint, then
`step()`. -/
def loopTurn (st : State) : Result :=
  match st.runState with
  | .running =>
    if st.stopFlag then .next { st with stopFlag := false, runState := .stopped }
    else if st.pauseFlag then .next { st with pauseFlag := false, runState := .paused }
    else if st.launch.breakpoints.contains st.pc && !st.skipBreakpoint then
      .next { st with runState := .paused }
    else stepCall { st with skipBreakpoint := false }
  | .idle => .next st
  | .paused => .next st
  | .stopped => .next st

/-! ## The host's calls -/

/-- The calls of 70_reset_and_hazards R447 that can change something. -/
inductive HostCall where
  /-- the assembled program's bounds and `END` line -/
  | setBounds (progStart : Addr) (progEnd : Nat) (endLine : Int)
  /-- one byte through the loader path (20_memory R57) -/
  | loadByte (a : Addr) (v : Byte)
  | reset
  | step
  | run
  | pause
  | resume
  | stop
  | addBreakpoint (a : Addr)
  | removeBreakpoint (a : Addr)
  | clearBreakpoints
  | setCeiling (n : Nat)
deriving DecidableEq, Repr

/-- Change the launch parameters. -/
def setLaunch (f : Launch → Launch) (st : State) : State := { st with launch := f st.launch }

/-- A call that the present run state does not allow: nothing changes (60_exceptions R420). -/
def notAllowed (st : State) : Result := .refused (.callNotAllowed st.runState)

/-- A call allowed between runs, that is whenever the loop is not running (60_exceptions R421). -/
def betweenRuns (f : State → State) (st : State) : Result :=
  if st.runState = .running then notAllowed st else .next (f st)

/-- A load: allowed in `Idle` and `Stopped`, and before a `reset()`, which it makes due (70_reset_and_hazards R447). -/
def beforeRun (f : State → State) (st : State) : Result :=
  match st.runState with
  | .idle => .next { f st with resetDue := true }
  | .stopped => .next { f st with resetDue := true }
  | .paused => notAllowed st
  | .running => notAllowed st

/-- The loader's byte: in memory at once, and part of what reset restores (20_memory R57, 70_reset_and_hazards R443). -/
def loadByteCall (a : Addr) (v : Byte) (st : State) : State :=
  setLaunch (fun l => { l with memImage := memSet l.memImage a.toNat v }) (storeByte a v st)

/-- The assembled program's bounds and `END` line; `PROG_END` is 0 to 0x10000 (10_state R39), `PROG_START` may lie above
it (70_reset_and_hazards R444). -/
def setBoundsCall (lo : Addr) (hi : Nat) (line : Int) (st : State) : Result :=
  if hi ≤ Config.memBytes then
    beforeRun (setLaunch fun l => { l with progStart := lo, progEnd := hi, endLine := line }) st
  else .refused (.badProgEnd hi)

/-- The start of a run from `Idle`: what the host has loaded needs a `reset()` first (70_reset_and_hazards R444,
R447). -/
def afterReset (k : State → Result) (st : State) : Result :=
  if st.resetDue then .refused .resetRequired else k st

/-- `step()` called by the host: not while the loop is running (70_reset_and_hazards R447). -/
def manualStep (st : State) : Result :=
  match st.runState with
  | .idle => afterReset stepCall st
  | .paused => stepCall st
  | .stopped => stepCall st
  | .running => notAllowed st

/-- `run()`: from `Idle` only; the loop starts with `skip` false (60_exceptions R420, R421). -/
def runCall (st : State) : Result :=
  match st.runState with
  | .idle => afterReset (fun s' => .next { s' with runState := .running, skipBreakpoint := false }) st
  | .paused => notAllowed st
  | .stopped => notAllowed st
  | .running => notAllowed st

/-- `pause()`: sets the flag the loop reads; without effect in `Idle` (60_exceptions R420, R422). -/
def pauseCall (st : State) : Result :=
  match st.runState with
  | .running => .next { st with pauseFlag := true }
  | .idle => .next st
  | .paused => notAllowed st
  | .stopped => notAllowed st

/-- `resume()`: re-enters the loop at the same PC; whether its first turn tests the breakpoints is
`RESUME_SKIPS_BREAKPOINT` (60_exceptions R421). -/
def resumeCall (st : State) : Result :=
  match st.runState with
  | .paused => .next { st with runState := .running, skipBreakpoint := st.launch.resumeSkips }
  | .idle => .next st
  | .stopped => notAllowed st
  | .running => notAllowed st

/-- `stop()`: sets the flag the loop reads; at once in `Paused`; without effect in `Idle` (60_exceptions R420,
R422). -/
def stopCall (st : State) : Result :=
  match st.runState with
  | .running => .next { st with stopFlag := true }
  | .paused => .next { st with runState := .stopped }
  | .idle => .next st
  | .stopped => notAllowed st

/-- A call of the host between two steps (60_exceptions R420, 70_reset_and_hazards R440, R447). -/
def hostCall (c : HostCall) (st : State) : Result :=
  match c with
  | .setBounds lo hi line => setBoundsCall lo hi line st
  | .loadByte a v => beforeRun (loadByteCall a v) st
  | .reset => betweenRuns (fun s' => resetState s'.launch) st
  | .step => manualStep st
  | .run => runCall st
  | .pause => pauseCall st
  | .resume => resumeCall st
  | .stop => stopCall st
  | .addBreakpoint a =>
    betweenRuns (setLaunch fun l => { l with breakpoints := insertAddr a l.breakpoints }) st
  | .removeBreakpoint a =>
    betweenRuns (setLaunch fun l => { l with breakpoints := removeAddr a l.breakpoints }) st
  | .clearBreakpoints => betweenRuns (setLaunch fun l => { l with breakpoints := [] }) st
  | .setCeiling n => betweenRuns (setLaunch fun l => { l with instrCeiling := n }) st

/-- "breakpoint has" (70_reset_and_hazards R447). -/
def hasBreakpoint (a : Addr) (st : State) : Bool := st.launch.breakpoints.contains a

/-! ## Placing an instruction -/

/-- Bytes written through the loader path, the first at `a`. -/
def placeBytes (a : Addr) : List Byte → State → State
  | [], st => st
  | v :: vs, st => placeBytes (a + 1) vs (storeByte a v st)

/-- The controller put into a state in which the next `step()` executes the instruction at PC: not stopped, PC inside
the bounds, the ceiling not reached. What already holds is left alone. -/
def allowStep (st : State) : State :=
  { st with
    runState := if st.runState = .stopped then .idle else st.runState
    report := if st.runState = .stopped then none else st.report
    launch := { st.launch with
      progStart := if st.pc.toNat < st.launch.progStart.toNat then st.pc else st.launch.progStart
      progEnd := if st.launch.progEnd ≤ st.pc.toNat then Config.memBytes else st.launch.progEnd
      instrCeiling := if st.launch.instrCeiling ≤ st.instrCount then st.instrCount + 1
                      else st.launch.instrCeiling } }

end Sys2Proof.Machine
end

