-- ==== Sys2Proof/Machine/Step.lean ====
section
/-! DEFINITION. One step of the machine, and placing an instruction where it fetches. -/

namespace Sys2Proof.Machine

/-- One step: the spec's `step()` (spec/60_exceptions.md R413). -/
def step (st : State) : Host.Outcome State Fault Refusal := stepCall st

/-- The state with a table row's word stored at PC, so that the next step runs it (log 9). -/
def State.withFetchWord (st : State) (nbits w : Nat) : State :=
  allowStep (placeBytes st.pc (tableBytes nbits w) st)

end Sys2Proof.Machine
end

