-- ==== Sys2Proof/Safety.lean ====
section
/-! DEFINITION. What counts as a safe run, the invariant of the machine, and the words the claims are written in: the
effects of the spec's rules as relations between an operand and a result, written apart from the functions that compute
them. -/

namespace Sys2Proof.Safety

open Sys2Proof.Machine

/-! ## Outcomes -/

/-- The info of a fault (60_exceptions R401). -/
def faultInfo : Fault → FaultInfo
  | .unknownOpcode p op a _ => .unknownOpcode p op a
  | .romWrite a _ => .romWrite a
  | .pcBeforeStart a _ => .pcBeforeStart a
  | .budgetExceeded n _ => .budgetExceeded n
  | .illegalPostByte pb a _ => .illegalPostByte pb a
  | .illegalRegisterCode pb a _ => .illegalRegisterCode pb a
  | .placeholderInstruction w a _ => .placeholderInstruction w a

/-- The state a fault leaves (60_exceptions R404). -/
def faultLeft : Fault → State
  | .unknownOpcode _ _ _ s => s
  | .romWrite _ s => s
  | .pcBeforeStart _ s => s
  | .budgetExceeded _ s => s
  | .illegalPostByte _ _ s => s
  | .illegalRegisterCode _ _ s => s
  | .placeholderInstruction _ _ s => s

/-- A step went on, or ended the run normally: it gave no fault (60_exceptions R404, "failure"). -/
def isSafe : Result → Bool
  | .next _ => true
  | .fault _ => false
  | .refused _ => false

/-- `n` steps without a fault. -/
def safeFor (n : Nat) (st : State) : Bool := isSafe (Sys2Proof.core.run n st)

/-- The run has ended normally (60_exceptions R423). -/
def endedNormally (st : State) : Bool :=
  match st.runState, st.report with
  | .stopped, some (.terminated _ _ _) => true
  | _, _ => false

/-- `step()` executes an instruction here: the machine is not stopped and no boundary test holds (60_exceptions R406,
R413). -/
def MayRun (st : State) : Prop :=
  st.runState ≠ .stopped ∧ st.pc.toNat < st.launch.progEnd ∧
  st.launch.progStart.toNat ≤ st.pc.toNat ∧ st.instrCount < st.launch.instrCeiling

/-! ## The invariant -/

/-- A set of addresses listed by rising address, all in RAM. -/
def ramAddrs : List Addr → Bool
  | [] => true
  | a :: rest =>
    decide (a.toNat < Config.romBase) &&
      (match rest with
       | [] => true
       | b :: _ => decide (a.toNat < b.toNat)) && ramAddrs rest

/-- What holds at every instruction boundary: both memories in canonical form, `PROG_END` in its range (10_state R39), the
count within the ceiling (R38), an outcome reported only in `Stopped` (60_exceptions R404, R410), and only RAM recorded as touched (a push to ROM
writes nothing, 45_transfer_stack R300). -/
structure MachineInv (st : State) : Prop where
  mem : st.mem.wf = true
  image : st.launch.memImage.wf = true
  bounds : st.launch.progEnd ≤ 0x10000
  count : st.instrCount ≤ st.launch.instrCeiling
  report : st.report ≠ none → st.runState = .stopped
  touched : ramAddrs st.stackTouched = true

/-! ## Flags -/

/-- N and Z come from a value (10_state R30, R31). -/
def NZ {w : Nat} (r : BitVec w) (cc' : Byte) : Prop :=
  getFlag .n cc' = r.msb ∧ getFlag .z cc' = decide (r = 0)

/-- The listed flags are as before. -/
def Keeps (fs : List Flag) (cc cc' : Byte) : Prop := ∀ g ∈ fs, getFlag g cc' = getFlag g cc

/-- `r` is the sum of `a`, `b` and the carry in, with N Z V C (41_arith_logic_8bit R150, 42_arith_16bit R200). -/
def SumOf {w : Nat} (a b : BitVec w) (cin : Bool) (r : BitVec w) (cc' : Byte) : Prop :=
  r.toNat = (a.toNat + b.toNat + cin.toNat) % 2 ^ w ∧
  getFlag .c cc' = decide (2 ^ w ≤ a.toNat + b.toNat + cin.toNat) ∧
  getFlag .v cc' = (a.msb == b.msb && r.msb != a.msb) ∧ NZ r cc'

/-- `r` is the difference, with N Z V C, C the borrow (41_arith_logic_8bit R151, 42_arith_16bit R201). -/
def DifferenceOf {w : Nat} (a b : BitVec w) (bin : Bool) (r : BitVec w) (cc' : Byte) : Prop :=
  (r.toNat + b.toNat + bin.toNat) % 2 ^ w = a.toNat ∧
  getFlag .c cc' = decide (a.toNat < b.toNat + bin.toNat) ∧
  getFlag .v cc' = (a.msb != b.msb && r.msb != a.msb) ∧ NZ r cc'

/-- H of an 8-bit addition (41_arith_logic_8bit R150). -/
def HalfCarry (a b : Byte) (cin : Bool) (cc' : Byte) : Prop :=
  getFlag .h cc' = decide (16 ≤ a.toNat % 16 + b.toNat % 16 + cin.toNat)

/-! ## One-operand functions: operand, CC before, result, CC after (43_unary_shift R220 to R230) -/

def NegOf (m cc v cc' : Byte) : Prop :=
  v.toNat = (256 - m.toNat) % 256 ∧ NZ v cc' ∧ getFlag .c cc' = decide (m ≠ 0) ∧
  getFlag .v cc' = decide (m.toNat = 0x80) ∧ Keeps [.e, .f, .h, .i] cc cc'

def ComOf (m cc v cc' : Byte) : Prop :=
  v.toNat = 255 - m.toNat ∧ NZ v cc' ∧ getFlag .v cc' = false ∧ getFlag .c cc' = true ∧
  Keeps [.e, .f, .h, .i] cc cc'

def IncOf (m cc v cc' : Byte) : Prop :=
  v.toNat = (m.toNat + 1) % 256 ∧ NZ v cc' ∧ getFlag .v cc' = decide (m.toNat = 0x7F) ∧
  Keeps [.e, .f, .h, .i, .c] cc cc'

def DecOf (m cc v cc' : Byte) : Prop :=
  v.toNat = (m.toNat + 255) % 256 ∧ NZ v cc' ∧ getFlag .v cc' = decide (m.toNat = 0x80) ∧
  Keeps [.e, .f, .h, .i, .c] cc cc'

def TstOf (m cc cc' : Byte) : Prop :=
  NZ m cc' ∧ getFlag .v cc' = false ∧ Keeps [.e, .f, .h, .i, .c] cc cc'

def ClrOf (_m cc v cc' : Byte) : Prop :=
  v = 0 ∧ getFlag .n cc' = false ∧ getFlag .z cc' = true ∧ getFlag .v cc' = false ∧
  getFlag .c cc' = false ∧ Keeps [.e, .f, .h, .i] cc cc'

def AslOf (m cc v cc' : Byte) : Prop :=
  v.toNat = 2 * m.toNat % 256 ∧ NZ v cc' ∧ getFlag .c cc' = m.getLsbD 7 ∧
  getFlag .v cc' = (m.getLsbD 7 != m.getLsbD 6) ∧ Keeps [.e, .f, .h, .i] cc cc'

def AsrOf (m cc v cc' : Byte) : Prop :=
  v.toInt = m.toInt / 2 ∧ NZ v cc' ∧ getFlag .c cc' = m.getLsbD 0 ∧ Keeps [.e, .f, .h, .i, .v] cc cc'

def LsrOf (m cc v cc' : Byte) : Prop :=
  v.toNat = m.toNat / 2 ∧ NZ v cc' ∧ getFlag .c cc' = m.getLsbD 0 ∧ Keeps [.e, .f, .h, .i, .v] cc cc'

def RolOf (m cc v cc' : Byte) : Prop :=
  v.toNat = (2 * m.toNat + (getFlag .c cc).toNat) % 256 ∧ NZ v cc' ∧ getFlag .c cc' = m.getLsbD 7 ∧
  getFlag .v cc' = (m.getLsbD 7 != m.getLsbD 6) ∧ Keeps [.e, .f, .h, .i] cc cc'

def RorOf (m cc v cc' : Byte) : Prop :=
  v.toNat = m.toNat / 2 + 128 * (getFlag .c cc).toNat ∧ NZ v cc' ∧ getFlag .c cc' = m.getLsbD 0 ∧
  Keeps [.e, .f, .h, .i, .v] cc cc'

/-! ## Shapes of results

Each says that every form of an instruction answers a next state, what that state is, and by the equation for it what
is left unchanged. -/

/-- The state in which an instruction is abandoned by a write to ROM (60_exceptions R400, R402). -/
def romFault (a : Addr) (left : State) : Result :=
  .fault (.romWrite a { left with runState := .stopped, report := some (.fault (.romWrite a)) })

/-- Every byte of memory but those at the listed addresses is as before. -/
def MemKept (except : List Addr) (st t : State) : Prop :=
  ∀ a, a ∉ except → readByte t a = readByte st a

/-! ## The launch of a run -/

/-- A memory holds the bytes that the assembler emitted. -/
def ImageHolds (emitted : List (Addr × Byte)) (m : Memory) : Prop := ∀ c ∈ emitted, memGet m c.1.toNat = c.2

/-- `bounds_ordered` (70_reset_and_hazards R446). -/
def BoundsOrdered (l : Launch) : Prop := l.progStart.toNat ≤ l.progEnd ∧ l.progEnd ≤ 0x10000

/-- The launch premises, by the names of 70_reset_and_hazards R446, for the bytes emitted and the value of
`INSTR_CEILING`. None is about A, B, X, Y, U, S, CC or about memory the loader did not write. -/
structure LaunchPremises (emitted : List (Addr × Byte)) (ceilingValue : Nat) (st : State) : Prop where
  /-- `pc_at_start` -/
  pcAtStart : st.pc = st.launch.progStart
  /-- `dp_zero` -/
  dpZero : st.dp = 0
  /-- `no_fault_recorded` -/
  noFaultRecorded : st.report = none
  /-- `count_zero` -/
  countZero : st.instrCount = 0
  /-- `flags_clear` -/
  flagsClear : st.pauseFlag = false ∧ st.stopFlag = false
  /-- `idle` -/
  idle : st.runState = .idle
  /-- `image_loaded` -/
  imageLoaded : ImageHolds emitted st.mem
  /-- `rom_locked` -/
  romLocked : ∀ (a : Addr) (v : Byte), 0x8000 ≤ a.toNat → writeByte a v st = romFault a st
  /-- `bounds_ordered` -/
  boundsOrdered : BoundsOrdered st.launch
  /-- `ceiling` -/
  ceiling : st.launch.instrCeiling = ceilingValue
  /-- `nothing_in_flight`: State has no queue and no pending event (10_state R43), and no load waits for its reset
  (R447; the flag is the model's choice, log 18) -/
  nothingInFlight : st.resetDue = false

/-! ## Results of instructions -/

/-- ADD and ADC on an accumulator (41_arith_logic_8bit R150, R160 to R163). -/
def AddResult (mk : Src8 → Instr) (r : Reg8) (withCarry : Bool) : Prop :=
  ∀ (m : Src8) (st : State), ∃ (v cc' : Byte),
    exec (mk m) st = .next (setReg8 r v (setCC cc' (operand8 m st).2)) ∧
    SumOf (reg8 r st) (operand8 m st).1 (withCarry && getFlag .c st.cc) v cc' ∧
    HalfCarry (reg8 r st) (operand8 m st).1 (withCarry && getFlag .c st.cc) cc' ∧
    Keeps [.e, .f, .i] st.cc cc'

/-- SUB and SBC on an accumulator (R151, R164 to R167). -/
def SubResult (mk : Src8 → Instr) (r : Reg8) (withCarry : Bool) : Prop :=
  ∀ (m : Src8) (st : State), ∃ (v cc' : Byte),
    exec (mk m) st = .next (setReg8 r v (setCC cc' (operand8 m st).2)) ∧
    DifferenceOf (reg8 r st) (operand8 m st).1 (withCarry && getFlag .c st.cc) v cc' ∧
    Keeps [.e, .f, .h, .i] st.cc cc'

/-- CMP on an accumulator: the flags of a subtraction, no register written (R168, R169). -/
def CompareResult (mk : Src8 → Instr) (r : Reg8) : Prop :=
  ∀ (m : Src8) (st : State), ∃ (v cc' : Byte),
    exec (mk m) st = .next (setCC cc' (operand8 m st).2) ∧
    DifferenceOf (reg8 r st) (operand8 m st).1 false v cc' ∧ Keeps [.e, .f, .h, .i] st.cc cc'

/-- AND, EOR, OR on an accumulator, bit by bit (R152, R170 to R177). -/
def LogicResult (mk : Src8 → Instr) (r : Reg8) (f : Bool → Bool → Bool) : Prop :=
  ∀ (m : Src8) (st : State), ∃ (v cc' : Byte),
    exec (mk m) st = .next (setReg8 r v (setCC cc' (operand8 m st).2)) ∧
    (∀ i < 8, v.getLsbD i = f ((reg8 r st).getLsbD i) ((operand8 m st).1.getLsbD i)) ∧
    NZ v cc' ∧ getFlag .v cc' = false ∧ Keeps [.e, .f, .h, .i, .c] st.cc cc'

/-- BIT on an accumulator: the flags of AND, no register written (R172, R173). -/
def BitTestResult (mk : Src8 → Instr) (r : Reg8) : Prop :=
  ∀ (m : Src8) (st : State), ∃ (v cc' : Byte),
    exec (mk m) st = .next (setCC cc' (operand8 m st).2) ∧
    (∀ i < 8, v.getLsbD i = ((reg8 r st).getLsbD i && (operand8 m st).1.getLsbD i)) ∧
    NZ v cc' ∧ getFlag .v cc' = false ∧ Keeps [.e, .f, .h, .i, .c] st.cc cc'

/-- CMPD, CMPX, CMPY, CMPU, CMPS. The register is read after the operand's address is computed: an indexed form may have
moved it (40_effective_address R144; 42_arith_16bit R205 to R209). -/
def Compare16Result (mk : Src16 → Instr) (r : Reg16) : Prop :=
  ∀ (m : Src16) (st : State), ∃ (v : Word) (cc' : Byte),
    exec (mk m) st = .next (setCC cc' (operand16 m st).2) ∧
    DifferenceOf (reg16 r (operand16 m st).2) (operand16 m st).1 false v cc' ∧
    Keeps [.e, .f, .h, .i] st.cc cc'

/-- A function of an accumulator, inherent form (43_unary_shift R231). -/
def AccResult (i : Instr) (r : Reg8) (f : Byte → Byte → Byte → Byte → Prop) : Prop :=
  ∀ st : State, ∃ (v cc' : Byte),
    exec i st = .next (setReg8 r v (setCC cc' st)) ∧ f (reg8 r st) st.cc v cc'

/-- A function of a memory byte (43_unary_shift R231): in RAM the byte is replaced; in ROM the fault comes after the
flags are written. -/
def MemResult (mk : MemMode → Instr) (f : Byte → Byte → Byte → Byte → Prop) : Prop :=
  ∀ (m : MemMode) (st : State), ∃ (v cc' : Byte), f (readByte st (ea m st).1) st.cc v cc' ∧
    ((ea m st).1.toNat < 0x8000 →
      ∃ t, exec (mk m) st = .next t ∧ t = { (ea m st).2 with cc := cc', mem := t.mem } ∧
        readByte t (ea m st).1 = v ∧ MemKept [(ea m st).1] st t) ∧
    (0x8000 ≤ (ea m st).1.toNat →
      exec (mk m) st = romFault (ea m st).1 { (ea m st).2 with cc := cc' })

/-- An 8-bit load (44_load_store_lea R270 to R272). -/
def Load8Result (mk : Src8 → Instr) (r : Reg8) : Prop :=
  ∀ (m : Src8) (st : State), ∃ cc',
    exec (mk m) st = .next (setReg8 r (operand8 m st).1 (setCC cc' (operand8 m st).2)) ∧
    NZ (operand8 m st).1 cc' ∧ Keeps [.e, .f, .h, .i, .v, .c] st.cc cc'

/-- A 16-bit load (44_load_store_lea R270, R273 to R277). -/
def Load16Result (mk : Src16 → Instr) (r : Reg16) : Prop :=
  ∀ (m : Src16) (st : State), ∃ cc',
    exec (mk m) st = .next (setReg16 r (operand16 m st).1 (setCC cc' (operand16 m st).2)) ∧
    NZ (operand16 m st).1 cc' ∧ Keeps [.e, .f, .h, .i, .v, .c] st.cc cc'

/-- An 8-bit store (44_load_store_lea R270, R278, R279). -/
def Store8Result (mk : MemMode → Instr) (r : Reg8) : Prop :=
  ∀ (m : MemMode) (st : State), ∃ cc',
    NZ (reg8 r st) cc' ∧ Keeps [.e, .f, .h, .i, .v, .c] st.cc cc' ∧
    ((ea m st).1.toNat < 0x8000 →
      ∃ t, exec (mk m) st = .next t ∧ t = { (ea m st).2 with cc := cc', mem := t.mem } ∧
        readByte t (ea m st).1 = reg8 r st ∧ MemKept [(ea m st).1] st t) ∧
    (0x8000 ≤ (ea m st).1.toNat →
      exec (mk m) st = romFault (ea m st).1 { (ea m st).2 with cc := cc' })

/-- A 16-bit store. The register is read after the address is computed (40_effective_address R144(a)); the high byte is
written first, and stays written if the low byte falls in ROM (20_memory R56; 44_load_store_lea R270, R280 to R284). -/
def Store16Result (mk : MemMode → Instr) (r : Reg16) : Prop :=
  ∀ (m : MemMode) (st : State), ∃ cc',
    NZ (reg16 r (ea m st).2) cc' ∧ Keeps [.e, .f, .h, .i, .v, .c] st.cc cc' ∧
    ((ea m st).1.toNat < 0x7FFF →
      ∃ t, exec (mk m) st = .next t ∧ t = { (ea m st).2 with cc := cc', mem := t.mem } ∧
        readByte t (ea m st).1 = hiByte (reg16 r (ea m st).2) ∧
        readByte t ((ea m st).1 + 1) = loByte (reg16 r (ea m st).2) ∧
        MemKept [(ea m st).1, (ea m st).1 + 1] st t) ∧
    ((ea m st).1.toNat = 0x7FFF →
      ∃ t, exec (mk m) st = romFault 0x8000#16 t ∧ t = { (ea m st).2 with cc := cc', mem := t.mem } ∧
        readByte t 0x7FFF#16 = hiByte (reg16 r (ea m st).2) ∧ MemKept [0x7FFF#16] st t) ∧
    (0x8000 ≤ (ea m st).1.toNat →
      exec (mk m) st = romFault (ea m st).1 { (ea m st).2 with cc := cc' })

/-- LEAX and LEAY (44_load_store_lea R285, R286, R289). -/
def LeaFlagsResult (mk : Indexed → Instr) (r : Reg16) : Prop :=
  ∀ (p : Indexed) (st : State), ∃ cc',
    exec (mk p) st = .next (setReg16 r (ea (.idx p) st).1 (setCC cc' (ea (.idx p) st).2)) ∧
    NZ (ea (.idx p) st).1 cc' ∧ Keeps [.e, .f, .h, .i, .v, .c] st.cc cc'

/-- LEAS and LEAU (44_load_store_lea R287 to R289). -/
def LeaPlainResult (mk : Indexed → Instr) (r : Reg16) : Prop :=
  ∀ (p : Indexed) (st : State),
    exec (mk p) st = .next (setReg16 r (ea (.idx p) st).1 (ea (.idx p) st).2)

/-! ## Stacks -/

/-- The bytes of a word as they lie in memory (20_memory R58). -/
def wordLayout (v : Word) : List Byte := [hiByte v, loByte v]

/-- What a push with mask `mm` leaves in memory, from the final pointer upward: CC, A, B, DP, X, Y, OSP, PC, the
unselected ones absent (45_transfer_stack R306). -/
def layout (k : Stack) (mm : Byte) (st : State) : List Byte :=
  (if mm.getLsbD 0 then [st.cc] else []) ++
  (if mm.getLsbD 1 then [st.a] else []) ++
  (if mm.getLsbD 2 then [st.b] else []) ++
  (if mm.getLsbD 3 then [st.dp] else []) ++
  (if mm.getLsbD 4 then wordLayout st.x else []) ++
  (if mm.getLsbD 5 then wordLayout st.y else []) ++
  (if mm.getLsbD 6 then wordLayout (match k with | .s => st.u | .u => st.s) else []) ++
  (if mm.getLsbD 7 then wordLayout st.pc else [])

/-- A stack's pointer. -/
def pointer (k : Stack) (st : State) : Word :=
  match k with
  | .s => st.s
  | .u => st.u

/-- The state with a stack's pointer replaced. -/
def withPointer (k : Stack) (p : Word) (st : State) : State :=
  match k with
  | .s => { st with s := p }
  | .u => { st with u := p }

/-- Pushing `bytes` (as they lie in memory afterwards) on a stack changes only the pointer, the bytes below it and the
record of touched addresses. -/
def Pushed (k : Stack) (bytes : List Byte) (st t : State) : Prop :=
  t = { withPointer k (pointer k st - BitVec.ofNat 16 bytes.length) st with
        mem := t.mem, stackTouched := t.stackTouched } ∧
  (∀ n < bytes.length, readByte t (pointer k t + BitVec.ofNat 16 n) = bytes.getD n 0) ∧
  (∀ a : Addr, (a.toNat < (pointer k t).toNat ∨ (pointer k st).toNat ≤ a.toNat) →
    readByte t a = readByte st a) ∧
  (∀ a : Addr, a ∈ t.stackTouched ↔
    a ∈ st.stackTouched ∨ ((pointer k t).toNat ≤ a.toNat ∧ a.toNat < (pointer k st).toNat))

/-- All `n` bytes of a push land in RAM (70_reset_and_hazards R445): `n <= SP <= 0x8000`, or there are none. -/
def PushFits (k : Stack) (n : Nat) (st : State) : Prop :=
  n = 0 ∨ (n ≤ (pointer k st).toNat ∧ (pointer k st).toNat ≤ 0x8000)

/-- What a push that does not fit does (45_transfer_stack R300, R312): the first byte that lands in ROM faults, with the
pointer at it; the bytes pushed before it stay written. -/
def PushFaults (k : Stack) (bytes : List Byte) (st : State) (r : Result) : Prop :=
  if (pointer k st).toNat = 0 ∨ 0x8000 < (pointer k st).toNat then
    r = romFault (pointer k st - 1) (withPointer k (pointer k st - 1) st)
  else
    ∃ t, r = romFault 0xFFFF#16 (withPointer k 0xFFFF#16 t) ∧
      Pushed k (bytes.drop (bytes.length - (pointer k st).toNat)) st t

/-- PSHS and PSHU (45_transfer_stack R306, R312, R314). -/
def PushResult (mk : Byte → Instr) (k : Stack) : Prop :=
  ∀ (mm : Byte) (st : State),
    (PushFits k (layout k mm st).length st →
      ∃ t, exec (mk mm) st = .next t ∧ Pushed k (layout k mm st) st t) ∧
    (¬ PushFits k (layout k mm st).length st → PushFaults k (layout k mm st) st (exec (mk mm) st))

/-- How many bytes the mask bits below bit `n` stand for (45_transfer_stack R306, R307). -/
def bytesBelow (mm : Byte) (n : Nat) : Nat :=
  ((List.range n).map fun i => if mm.getLsbD i then (if i < 4 then 1 else 2) else 0).sum

/-- Where a pull with mask `mm` finds the register of bit `n`. -/
def slot (k : Stack) (mm : Byte) (n : Nat) (st : State) : Addr :=
  pointer k st + BitVec.ofNat 16 (bytesBelow mm n)

/-- A pull with mask `mm` (45_transfer_stack R307): each selected register from its slot, the pointer past them all,
memory and everything else as before. -/
def Pulled (k : Stack) (mm : Byte) (st t : State) : Prop :=
  t = { st with
    cc := if mm.getLsbD 0 then readByte st (slot k mm 0 st) else st.cc
    a := if mm.getLsbD 1 then readByte st (slot k mm 1 st) else st.a
    b := if mm.getLsbD 2 then readByte st (slot k mm 2 st) else st.b
    dp := if mm.getLsbD 3 then readByte st (slot k mm 3 st) else st.dp
    x := if mm.getLsbD 4 then readWord st (slot k mm 4 st) else st.x
    y := if mm.getLsbD 5 then readWord st (slot k mm 5 st) else st.y
    u := match k with
      | .s => if mm.getLsbD 6 then readWord st (slot k mm 6 st) else st.u
      | .u => slot k mm 8 st
    s := match k with
      | .s => slot k mm 8 st
      | .u => if mm.getLsbD 6 then readWord st (slot k mm 6 st) else st.s
    pc := if mm.getLsbD 7 then readWord st (slot k mm 7 st) else st.pc }

/-- PULS and PULU never fault (45_transfer_stack R307, R313, R315). -/
def PullResult (mk : Byte → Instr) (k : Stack) : Prop :=
  ∀ (mm : Byte) (st : State), ∃ t, exec (mk mm) st = .next t ∧ Pulled k mm st t

/-! ## Branches and calls -/

/-- A short branch: taken for the listed values of `CC & 0x0F`; only PC changes (46_control_transfer R330, R331). -/
def Branch8Result (mk : Byte → Instr) (taken : List Nat) : Prop :=
  ∀ (o : Byte) (st : State), exec (mk o) st =
    .next { st with pc := if st.cc.toNat % 16 ∈ taken then BitVec.ofInt 16 (st.pc.toNat + o.toInt) else st.pc }

/-- A long branch: the same with a 16-bit offset (46_control_transfer R330, R331). -/
def Branch16Result (mk : Word → Instr) (taken : List Nat) : Prop :=
  ∀ (o : Word) (st : State), exec (mk o) st =
    .next { st with pc := if st.cc.toNat % 16 ∈ taken then BitVec.ofNat 16 (st.pc.toNat + o.toNat) else st.pc }

/-- A call from `st` to `target` (46_control_transfer, section 4): the return address is pushed on S, then PC is the
target; if the push faults, PC is still the return address. -/
def Called (target : Addr) (st : State) (r : Result) : Prop :=
  (PushFits .s 2 st → ∃ t, r = .next { t with pc := target } ∧ Pushed .s (wordLayout st.pc) st t) ∧
  (¬ PushFits .s 2 st → PushFaults .s (wordLayout st.pc) st r)

/-! ## Encodings -/

/-- The 33 empty slots of page 1 (30_encoding R97). -/
def page1Empty : List Byte :=
  [0x01#8, 0x02#8, 0x05#8, 0x0B#8, 0x14#8, 0x15#8, 0x18#8, 0x1B#8, 0x38#8, 0x3E#8,
   0x41#8, 0x42#8, 0x45#8, 0x4B#8, 0x4E#8, 0x51#8, 0x52#8, 0x55#8, 0x5B#8, 0x5E#8] ++
  [0x61#8, 0x62#8, 0x65#8, 0x6B#8, 0x71#8, 0x72#8, 0x75#8, 0x7B#8, 0x87#8, 0x8F#8,
   0xC7#8, 0xCD#8, 0xCF#8]

/-- Sub-modes without a meaning (40_effective_address R143). -/
def undefinedSubMode (pb : Byte) : Bool :=
  128 ≤ pb.toNat && [0x7, 0xA, 0xE, 0xF].contains (pb.toNat % 16)

/-- A valid REGPAIR post-byte (45_transfer_stack R305): both codes defined and of one width. -/
def validPair (pb : Byte) : Bool :=
  (pb.toNat / 16 ≤ 5 && pb.toNat % 16 ≤ 5) ||
  (8 ≤ pb.toNat / 16 && pb.toNat / 16 ≤ 11 && 8 ≤ pb.toNat % 16 && pb.toNat % 16 ≤ 11)

/-- The 8-bit immediate operand of an instruction (30_encoding R86). -/
def immediate8 : Instr → Option Byte
  | .suba (.imm ii) | .cmpa (.imm ii) | .sbca (.imm ii) | .anda (.imm ii) | .bita (.imm ii) | .lda (.imm ii)
  | .eora (.imm ii) | .adca (.imm ii) | .ora (.imm ii) | .adda (.imm ii) | .subb (.imm ii) | .cmpb (.imm ii)
  | .sbcb (.imm ii) | .andb (.imm ii) | .bitb (.imm ii) | .ldb (.imm ii) | .eorb (.imm ii) | .adcb (.imm ii)
  | .orb (.imm ii) | .addb (.imm ii)
  | .andcc ii | .orcc ii | .cwai ii => some ii
  | _ => none

/-- The 16-bit immediate operand of an instruction (30_encoding R87). -/
def immediate16 : Instr → Option Word
  | .subd (.imm w) | .cmpx (.imm w) | .ldx (.imm w) | .addd (.imm w) | .ldd (.imm w) | .ldu (.imm w)
  | .cmpd (.imm w) | .cmpy (.imm w) | .ldy (.imm w) | .lds (.imm w) | .cmpu (.imm w) | .cmps (.imm w) => some w
  | _ => none

/-! ## Which instructions may do what (whole-machine rules) -/

/-- The 8-bit additions, which alone compute H (10_state R32). -/
def isAdd8 : Instr → Bool
  | .adda _ | .addb _ | .adca _ | .adcb _ => true
  | _ => false

/-- The instructions that write CC whole: ANDCC, ORCC, TFR/EXG to CC, PULS/PULU of CC (10_state R33), and RTI under
`mc6809` (47_system_placeholders R384). -/
def writesCCWhole : Instr → Bool
  | .andcc _ | .orcc _ | .rti => true
  | .tfr (.narrow _ .cc) | .exg (.narrow _ .cc) | .exg (.narrow .cc _) => true
  | .puls mm | .pulu mm => mm.getLsbD 0
  | _ => false

/-- The software interrupts, which set E, and SWI I and F too, under `mc6809` (47_system_placeholders R381 to R383). -/
def isSwi : Instr → Bool
  | .swi | .swi2 | .swi3 => true
  | _ => false

/-- The instructions that write DP: TFR/EXG with code 0xB, PULS/PULU with bit 3 (10_state R36), and RTI under `mc6809`. -/
def writesDP : Instr → Bool
  | .tfr (.narrow _ .dp) | .exg (.narrow _ .dp) | .exg (.narrow .dp _) | .rti => true
  | .puls mm | .pulu mm => mm.getLsbD 3
  | _ => false

/-- The instructions that write PC other than by fetching (46_control_transfer R370). -/
def writesPC : Instr → Bool
  | .bra _ | .brn _ | .bhi _ | .bls _ | .bcc _ | .bcs _ | .bne _ | .beq _
  | .bvc _ | .bvs _ | .bpl _ | .bmi _ | .bge _ | .blt _ | .bgt _ | .ble _ => true
  | .lbra _ | .lbrn _ | .lbhi _ | .lbls _ | .lbcc _ | .lbcs _ | .lbne _ | .lbeq _
  | .lbvc _ | .lbvs _ | .lbpl _ | .lbmi _ | .lbge _ | .lblt _ | .lbgt _ | .lble _ => true
  | .bsr _ | .lbsr _ | .jmp _ | .jsr _ | .rts | .swi | .swi2 | .swi3 | .rti => true
  | .tfr (.wide _ .pc) | .exg (.wide _ .pc) | .exg (.wide .pc _) => true
  | .puls mm | .pulu mm => mm.getLsbD 7
  | _ => false

/-- The instructions that write memory: stores, memory-form unary operations but TST, pushes (60_exceptions R402). -/
def writesMem : Instr → Bool
  | .sta _ | .stb _ | .std _ | .stx _ | .sty _ | .stu _ | .sts _ => true
  | .neg _ | .com _ | .lsr _ | .ror _ | .asr _ | .asl _ | .rol _ | .dec _ | .inc _ | .clr _ => true
  | .pshs _ | .pshu _ | .bsr _ | .lbsr _ | .jsr _ | .swi | .swi2 | .swi3 => true
  | _ => false

/-- The placeholders (47_system_placeholders R380). -/
def isPlaceholder : Instr → Bool
  | .swi | .swi2 | .swi3 | .rti | .cwai _ | .sync => true
  | _ => false

/-- The page bytes before an empty slot. -/
def isPageByte : Instr → Bool
  | .prefixPage2 _ | .prefixPage3 _ => true
  | _ => false

end Sys2Proof.Safety
end

