-- ==== Sys2Proof/Certificates/Slice0/Obligations.lean ====
section
/-! DEFINITION. The statements for the provers. Each docstring names the rules of spec/ it is about. -/

open Sys2Proof Sys2Proof.Machine Sys2Proof.Safety

/-! ## Encodings (spec/30_encoding.md, spec/40_effective_address.md, spec/45_transfer_stack.md) -/

/-- Decoding the bytes of any well-formed instruction, whatever follows them, gives it back with its length (R80, R101,
R146). -/
def Obligations.DecodeEncode : Prop :=
  ∀ (i : Instr) (rest : List Byte), wellFormed i = true →
    decode (encode i ++ rest) = .ok (i, (encode i).length)

/-- What is decoded is a well-formed instruction of 1 to 5 bytes, and the bytes after it do not matter (R80, R102). -/
def Obligations.DecodedWellFormed : Prop :=
  ∀ (bs : List Byte) (i : Instr) (n : Nat), decode bs = .ok (i, n) →
    wellFormed i = true ∧ 1 ≤ n ∧ n ≤ 5 ∧
    ∀ bs' : List Byte, (∀ k < n, byteAt bs' k = byteAt bs k) → decode bs' = .ok (i, n)

/-- The empty slots. On page 1 there are exactly 33; with the two page bytes and 221 instructions they make 256 (R97). After
0x10 (0x11) exactly one further byte is read and it indexes page 2 (page 3): an empty slot, a second page byte among them, is
no instruction of that page (R82, R83, R99, R100). -/
def Obligations.UnknownOpcodes : Prop :=
  (∀ (bs : List Byte) (op : Byte), decode bs = .error (.unknownOpcode op) ↔
    (byteAt bs 0 = op ∧ op ∈ page1Empty)) ∧
  page1Empty.length = 33 ∧
  ((List.range 256).filter fun n => (page1Slot (BitVec.ofNat 8 n)).isSome).length = 221 ∧
  (∀ (op : Byte) (rest : List Byte),
    ((∃ n, decode (0x10#8 :: op :: rest) = .ok (.prefixPage2 op, n)) ↔ op ∉ page2Filled) ∧
    ((∃ n, decode (0x11#8 :: op :: rest) = .ok (.prefixPage3 op, n)) ↔ op ∉ page3Filled))

/-- An indexed post-byte has no meaning exactly when bit 7 is set and its low nibble is 7, A, E or F, whatever follows it
(R143, R109). -/
def Obligations.IllegalPostBytes : Prop :=
  ∀ pb o1 o2 : Byte, decodeIndexed pb o1 o2 = none ↔ undefinedSubMode pb = true

/-- Encoding what a post-byte decodes to gives the post-byte and its offset bytes back, but for the PC-relative sub-modes
with a non-zero register field (R127, R146). -/
def Obligations.EncodeDecodePostByte : Prop :=
  ∀ (pb o1 o2 : Byte) (p : Indexed) (n : Nat), decodeIndexed pb o1 o2 = some (p, n) →
    (pb.toNat / 128 = 1 ∧ (pb.toNat % 16 = 0xC ∨ pb.toNat % 16 = 0xD) → pb.toNat / 32 % 4 = 0) →
    encodeIndexed p = pb :: [o1, o2].take n

/-- A REGPAIR post-byte is valid iff both codes are defined and both name registers of one width; 52 of the 256 are
(R304, R305). -/
def Obligations.ValidPairs : Prop :=
  (∀ pb : Byte, (decodePair pb).isSome = validPair pb) ∧
  ((List.range 256).filter fun n => validPair (BitVec.ofNat 8 n)).length = 52 ∧
  (∀ (pb : Byte) (r1 r2 : Reg16), decodePair pb = some (.wide r1 r2) →
    code16 r1 = BitVec.ofNat 4 (pb.toNat / 16) ∧ code16 r2 = BitVec.ofNat 4 (pb.toNat % 16)) ∧
  (∀ (pb : Byte) (r1 r2 : Reg8), decodePair pb = some (.narrow r1 r2) →
    code8 r1 = BitVec.ofNat 4 (pb.toNat / 16) ∧ code8 r2 = BitVec.ofNat 4 (pb.toNat % 16))

/-- A word of several families, written out from the spec's encoding of it, decodes to the instruction it stands for. -/
def Obligations.SampleWords : Prop :=
  decode [0x86#8, 0x05#8] = .ok (.lda (.imm 0x05#8), 2) ∧
  decode [0x8B#8, 0x03#8] = .ok (.adda (.imm 0x03#8), 2) ∧
  decode [0x97#8, 0x00#8] = .ok (.sta (.dir 0x00#8), 2) ∧
  decode [0x10#8, 0x26#8, 0x00#8, 0xFC#8] = .ok (.lbne 0x00FC#16, 4) ∧
  decode [0x11#8, 0xA3#8, 0x84#8] = .ok (.cmpu (.mem (.idx (.complex (.plain .x) false))), 3) ∧
  decode [0xA6#8, 0x9D#8, 0x01#8, 0x00#8] = .ok (.lda (.mem (.idx (.complex (.pc16 0x0100#16) true))), 4) ∧
  decode [0x1F#8, 0x9B#8] = .ok (.tfr (.narrow .b .dp), 2) ∧
  decode [0x35#8, 0x86#8] = .ok (.puls 0x86#8, 2)

/-! ## Memory and registers (spec/10_state.md, spec/20_memory.md) -/

/-- A run-time byte write stores the byte below 0x8000 and changes no other byte; from 0x8000 on it raises RomWrite and
memory is unchanged (R54). -/
def Obligations.ByteWrite : Prop :=
  ∀ (a : Addr) (v : Byte) (st : State),
    (a.toNat < 0x8000 → ∃ t, writeByte a v st = .next t ∧ t = { st with mem := t.mem } ∧
      readByte t a = v ∧ MemKept [a] st t) ∧
    (0x8000 ≤ a.toNat → writeByte a v st = romFault a st)

/-- A word lies big-endian: its high byte at the lower address, the second address mod 2^16 (R53, R55, R56, R58). -/
def Obligations.WordAccess : Prop :=
  ∀ (a : Addr) (v : Word) (st : State),
    (readWord st a).toNat =
      256 * (readByte st a).toNat + (readByte st (BitVec.ofNat 16 (a.toNat + 1))).toNat ∧
    (a.toNat < 0x7FFF → ∃ t, writeWord a v st = .next t ∧ t = { st with mem := t.mem } ∧ readWord t a = v ∧
      (readByte t a).toNat = v.toNat / 256 ∧ (readByte t (a + 1)).toNat = v.toNat % 256 ∧
      MemKept [a, a + 1] st t)

/-- D is A:B: reading it gives A*256 + B, and writing it writes A with the high byte and B with the low byte and nothing
else, so that it reads back (R22). -/
def Obligations.RegisterViews : Prop :=
  ∀ (st : State) (v : Word),
    (reg16 .d st).toNat = 256 * st.a.toNat + st.b.toNat ∧
    (setReg16 .d v st).a.toNat = v.toNat / 256 ∧ (setReg16 .d v st).b.toNat = v.toNat % 256 ∧
    reg16 .d (setReg16 .d v st) = v ∧
    setReg16 .d v st = { st with a := (setReg16 .d v st).a, b := (setReg16 .d v st).b }

/-! ## Effective addresses (spec/40_effective_address.md) -/

/-- Direct and extended mode (R122, R123), and what the operand of a memory form is: the byte or the big-endian word at the
effective address (R125, R126). -/
def Obligations.OperandModes : Prop :=
  (∀ (st : State) (dd : Byte) (a : Addr),
    (ea (.dir dd) st).1.toNat = 256 * st.dp.toNat + dd.toNat ∧ (ea (.dir dd) st).2 = st ∧
    ea (.ext a) st = (a, st)) ∧
  (∀ (m : MemMode) (st : State), operand8 (.mem m) st = (readByte st (ea m st).1, (ea m st).2)) ∧
  (∀ (m : MemMode) (st : State), operand16 (.mem m) st = (readWord st (ea m st).1, (ea m st).2))

/-- An immediate operand is the instruction's own last byte or word, as it stands in the instruction stream, high byte
first; using it moves no register and reads no memory (R121, R86, R87). -/
def Obligations.ImmediateOperands : Prop :=
  (∀ (bs : List Byte) (i : Instr) (n : Nat), decode bs = .ok (i, n) →
    (∀ ii, immediate8 i = some ii → byteAt bs (n - 1) = ii) ∧
    (∀ w, immediate16 i = some w →
      256 * (byteAt bs (n - 2)).toNat + (byteAt bs (n - 1)).toNat = w.toNat)) ∧
  (∀ (ii : Byte) (st : State), operand8 (.imm ii) st = (ii, st)) ∧
  (∀ (w : Word) (st : State), operand16 (.imm w) st = (w, st))

/-- The indexed forms that move no register: 5-bit, 8-bit and 16-bit offsets, none, A, B and D, and the PC-relative ones
(R128, R134 to R141). All sums are mod 2^16; PC is the address after the instruction. -/
def Obligations.IndexedOffsets : Prop :=
  ∀ (r : IndexReg) (st : State) (o5 : BitVec 5) (o8 : Byte) (o16 : Word),
    let R := (reg16 (baseReg r) st).toNat
    indexedAddr (.simple r o5) st = (BitVec.ofInt 16 (R + o5.toInt), st) ∧
    indexedAddr (.complex (.plain r) false) st = (BitVec.ofNat 16 R, st) ∧
    indexedAddr (.complex (.accB r) false) st = (BitVec.ofInt 16 (R + st.b.toInt), st) ∧
    indexedAddr (.complex (.accA r) false) st = (BitVec.ofInt 16 (R + st.a.toInt), st) ∧
    indexedAddr (.complex (.off8 r o8) false) st = (BitVec.ofInt 16 (R + o8.toInt), st) ∧
    indexedAddr (.complex (.off16 r o16) false) st = (BitVec.ofNat 16 (R + o16.toNat), st) ∧
    indexedAddr (.complex (.accD r) false) st = (BitVec.ofNat 16 (R + 256 * st.a.toNat + st.b.toNat), st) ∧
    indexedAddr (.complex (.pc8 o8) false) st = (BitVec.ofInt 16 (st.pc.toNat + o8.toInt), st) ∧
    indexedAddr (.complex (.pc16 o16) false) st = (BitVec.ofNat 16 (st.pc.toNat + o16.toNat), st)

/-- Auto-increment uses the old value and then adds 1 or 2; auto-decrement subtracts 1 or 2 and uses the new value; no
other register moves (R130 to R133). -/
def Obligations.AutoIncrement : Prop :=
  ∀ (r : IndexReg) (st : State),
    let R := (reg16 (baseReg r) st).toNat
    let at' := fun n : Int => setReg16 (baseReg r) (BitVec.ofInt 16 (R + n)) st
    indexedAddr (.complex (.inc1 r) false) st = (BitVec.ofNat 16 R, at' 1) ∧
    indexedAddr (.complex (.inc2 r) false) st = (BitVec.ofNat 16 R, at' 2) ∧
    indexedAddr (.complex (.dec1 r) false) st = (BitVec.ofInt 16 (R - 1), at' (-1)) ∧
    indexedAddr (.complex (.dec2 r) false) st = (BitVec.ofInt 16 (R - 2), at' (-2))

/-- An indirect form takes the address from the word at the address the same form without the indirect flag computes; it
moves the base register alike (R142). -/
def Obligations.Indirection : Prop :=
  ∀ (m : SubMode) (st : State),
    let e := indexedAddr (.complex m false) st
    (indexedAddr (.complex m true) st).2 = e.2 ∧
    (indexedAddr (.complex m true) st).1.toNat =
      256 * (readByte st e.1).toNat + (readByte st (e.1 + 1)).toNat

/-- Computing an address changes at most one of X, Y, U and S, and by at most 2; it writes no memory and no flag (R120,
R144). -/
def Obligations.AddressFrame : Prop :=
  ∀ (m : MemMode) (st : State),
    (ea m st).2 = st ∨
    ∃ (r : IndexReg) (d : Word), d ∈ [1#16, 2#16, 0xFFFF#16, 0xFFFE#16] ∧
      (ea m st).2 = setReg16 (baseReg r) (reg16 (baseReg r) st + d) st

/-! ## 8-bit and 16-bit arithmetic (spec/41_arith_logic_8bit.md, spec/42_arith_16bit.md) -/

/-- ADDA, ADDB, ADCA, ADCB: every form completes; the accumulator gets the sum, H N Z V C are written, E F I and
everything else is as the operand's address computation left it (R150, R160 to R163). -/
def Obligations.Add8 : Prop :=
  AddResult .adda .a false ∧ AddResult .addb .b false ∧ AddResult .adca .a true ∧ AddResult .adcb .b true

/-- SUBA, SUBB, SBCA, SBCB, with C the borrow and H kept (R151, R164 to R167); CMPA and CMPB write the same flags and no
register (R168, R169). -/
def Obligations.Sub8 : Prop :=
  SubResult .suba .a false ∧ SubResult .subb .b false ∧ SubResult .sbca .a true ∧ SubResult .sbcb .b true ∧
  CompareResult .cmpa .a ∧ CompareResult .cmpb .b

/-- ANDA, ANDB, EORA, EORB, ORA, ORB: V cleared, C and H kept (R152, R170, R171, R174 to R177); BITA and BITB write the flags
of AND and no register (R172, R173). -/
def Obligations.Logic8 : Prop :=
  LogicResult .anda .a and ∧ LogicResult .andb .b and ∧ LogicResult .eora .a xor ∧
  LogicResult .eorb .b xor ∧ LogicResult .ora .a or ∧ LogicResult .orb .b or ∧
  BitTestResult .bita .a ∧ BitTestResult .bitb .b

/-- MUL: D is the unsigned product, Z from its 16 bits, C its bit 7, the other flags kept (R178). -/
def Obligations.Multiply : Prop :=
  ∀ st : State, ∃ (p : Word) (cc' : Byte),
    exec .mul st = .next { st with a := hiByte p, b := loByte p, cc := cc' } ∧
    p.toNat = st.a.toNat * st.b.toNat ∧ getFlag .z cc' = decide (p.toNat = 0) ∧
    getFlag .c cc' = decide (128 ≤ p.toNat % 256) ∧ Keeps [.e, .f, .h, .i, .n, .v] st.cc cc'

/-- DAA: both tests look at A before any correction; C is set with the 0x60 correction and otherwise kept; N and Z from
the result; the other flags kept (R179). -/
def Obligations.DecimalAdjust : Prop :=
  ∀ st : State, ∃ v cc' : Byte,
    exec .daa st = .next { st with a := v, cc := cc' } ∧
    (let low := 9 < st.a.toNat % 16 ∨ getFlag .h st.cc = true
     let high := 0x99 < st.a.toNat ∨ getFlag .c st.cc = true
     (low ∧ high → v.toNat = (st.a.toNat + 0x66) % 256) ∧
     (low ∧ ¬high → v.toNat = (st.a.toNat + 0x06) % 256) ∧
     (¬low ∧ high → v.toNat = (st.a.toNat + 0x60) % 256) ∧
     (¬low ∧ ¬high → v = st.a) ∧
     (high → getFlag .c cc' = true) ∧ (¬high → getFlag .c cc' = getFlag .c st.cc)) ∧
    NZ v cc' ∧ Keeps [.e, .f, .h, .i, .v] st.cc cc'

/-- ADDD and SUBD on D, H kept (R200, R201, R203, R204); CMPD, CMPX, CMPY, CMPU and CMPS write the flags of a subtraction and
no register (R205 to R209). -/
def Obligations.Arith16 : Prop :=
  (∀ (m : Src16) (st : State),
    (∃ (v : Word) (cc' : Byte), exec (.addd m) st = .next (setReg16 .d v (setCC cc' (operand16 m st).2)) ∧
      SumOf (reg16 .d st) (operand16 m st).1 false v cc' ∧ Keeps [.e, .f, .h, .i] st.cc cc') ∧
    (∃ (v : Word) (cc' : Byte), exec (.subd m) st = .next (setReg16 .d v (setCC cc' (operand16 m st).2)) ∧
      DifferenceOf (reg16 .d st) (operand16 m st).1 false v cc' ∧ Keeps [.e, .f, .h, .i] st.cc cc')) ∧
  Compare16Result .cmpd .d ∧ Compare16Result .cmpx .x ∧ Compare16Result .cmpy .y ∧
  Compare16Result .cmpu .u ∧ Compare16Result .cmps .s

/-- V after an addition or a subtraction says that the signed result does not fit, C that the unsigned one does not: a
carry out of an addition, a borrow of a subtraction (R154). -/
def Obligations.OverflowIsSigned : Prop :=
  ∀ (a b : Byte) (p q : Word) (c : Bool) (cc : Byte),
    getFlag .v (add8 a b c cc).cc = decide (a.toInt + b.toInt + c.toNat ≠ (add8 a b c cc).value.toInt) ∧
    getFlag .v (sub8 a b c cc).cc = decide (a.toInt - b.toInt - c.toNat ≠ (sub8 a b c cc).value.toInt) ∧
    getFlag .v (add16 p q cc).cc = decide (p.toInt + q.toInt ≠ (add16 p q cc).value.toInt) ∧
    getFlag .v (sub16 p q cc).cc = decide (p.toInt - q.toInt ≠ (sub16 p q cc).value.toInt) ∧
    getFlag .c (add8 a b c cc).cc = decide (a.toNat + b.toNat + c.toNat ≠ (add8 a b c cc).value.toNat) ∧
    getFlag .c (sub8 a b c cc).cc = decide (a.toNat < b.toNat + c.toNat) ∧
    getFlag .c (add16 p q cc).cc = decide (p.toNat + q.toNat ≠ (add16 p q cc).value.toNat) ∧
    getFlag .c (sub16 p q cc).cc = decide (p.toNat < q.toNat)

/-! ## Single-operand instructions (spec/43_unary_shift.md) -/

/-- NEG, COM, INC, DEC, CLR, the shifts and the rotates on A and B (R220 to R223, R225 to R231). -/
def Obligations.UnaryAccumulator : Prop :=
  AccResult .nega .a NegOf ∧ AccResult .negb .b NegOf ∧ AccResult .coma .a ComOf ∧ AccResult .comb .b ComOf ∧
  AccResult .inca .a IncOf ∧ AccResult .incb .b IncOf ∧ AccResult .deca .a DecOf ∧ AccResult .decb .b DecOf ∧
  AccResult .clra .a ClrOf ∧ AccResult .clrb .b ClrOf ∧
  AccResult .asla .a AslOf ∧ AccResult .aslb .b AslOf ∧ AccResult .asra .a AsrOf ∧ AccResult .asrb .b AsrOf ∧
  AccResult .lsra .a LsrOf ∧ AccResult .lsrb .b LsrOf ∧ AccResult .rola .a RolOf ∧ AccResult .rolb .b RolOf ∧
  AccResult .rora .a RorOf ∧ AccResult .rorb .b RorOf

/-- The same on a memory byte: in RAM it is replaced; in ROM the fault comes after the flags are written (R220 to R223, R225
to R231). -/
def Obligations.UnaryMemory : Prop :=
  MemResult .neg NegOf ∧ MemResult .com ComOf ∧ MemResult .inc IncOf ∧ MemResult .dec DecOf ∧ MemResult .clr ClrOf ∧
  MemResult .asl AslOf ∧ MemResult .asr AsrOf ∧ MemResult .lsr LsrOf ∧ MemResult .rol RolOf ∧ MemResult .ror RorOf

/-- TST writes no register and no memory, and works on ROM (R224, R231, R259 to R261). -/
def Obligations.Test : Prop :=
  ∀ st : State,
    (∃ cc', exec .tsta st = .next { st with cc := cc' } ∧ TstOf st.a st.cc cc') ∧
    (∃ cc', exec .tstb st = .next { st with cc := cc' } ∧ TstOf st.b st.cc cc') ∧
    (∀ m : MemMode, ∃ cc', exec (.tst m) st = .next { (ea m st).2 with cc := cc' } ∧
      TstOf (readByte st (ea m st).1) st.cc cc')

/-! ## Loads, stores, LEA (spec/44_load_store_lea.md) -/

/-- Every load completes in every form: N and Z from the value, V and C kept (R270 to R277). -/
def Obligations.Loads : Prop :=
  Load8Result .lda .a ∧ Load8Result .ldb .b ∧ Load16Result .ldd .d ∧ Load16Result .ldx .x ∧
  Load16Result .ldy .y ∧ Load16Result .ldu .u ∧ Load16Result .lds .s

/-- STA and STB store a byte; STD, STX, STY, STU and STS a word, high byte first. N and Z are written before the memory, so a
RomWrite leaves them written, and the high byte too when only the low byte falls in ROM (R270, R278 to R284). -/
def Obligations.Stores : Prop :=
  Store8Result .sta .a ∧ Store8Result .stb .b ∧
  Store16Result .std .d ∧ Store16Result .stx .x ∧ Store16Result .sty .y ∧ Store16Result .stu .u ∧
  Store16Result .sts .s

/-- LEAX and LEAY write N and Z; LEAS and LEAU write no flag (R285 to R289). -/
def Obligations.LoadAddress : Prop :=
  LeaFlagsResult .leax .x ∧ LeaFlagsResult .leay .y ∧ LeaPlainResult .leas .s ∧ LeaPlainResult .leau .u

/-! ## Transfer, stacks, condition codes (spec/45_transfer_stack.md) -/

/-- TFR copies the first register to the second (R308); EXG exchanges the two, and the order of its operands does not matter
(R309). Neither changes anything else. -/
def Obligations.TransferExchange : Prop :=
  (∀ (r1 r2 : Reg16) (st : State), ∃ t, exec (.tfr (.wide r1 r2)) st = .next t ∧ reg16 r2 t = reg16 r1 st ∧
    (∀ q, q ≠ r2 → reg16 q t = reg16 q st) ∧
    t = { st with a := t.a, b := t.b, x := t.x, y := t.y, u := t.u, s := t.s, pc := t.pc }) ∧
  (∀ (r1 r2 : Reg8) (st : State), ∃ t, exec (.tfr (.narrow r1 r2)) st = .next t ∧ reg8 r2 t = reg8 r1 st ∧
    (∀ q, q ≠ r2 → reg8 q t = reg8 q st) ∧
    t = { st with a := t.a, b := t.b, cc := t.cc, dp := t.dp }) ∧
  (∀ (r1 r2 : Reg16) (st : State), ∃ t, exec (.exg (.wide r1 r2)) st = .next t ∧
    exec (.exg (.wide r2 r1)) st = .next t ∧ reg16 r2 t = reg16 r1 st ∧ reg16 r1 t = reg16 r2 st ∧
    (∀ q, q ≠ r1 → q ≠ r2 → reg16 q t = reg16 q st) ∧
    t = { st with a := t.a, b := t.b, x := t.x, y := t.y, u := t.u, s := t.s, pc := t.pc }) ∧
  (∀ (r1 r2 : Reg8) (st : State), ∃ t, exec (.exg (.narrow r1 r2)) st = .next t ∧
    exec (.exg (.narrow r2 r1)) st = .next t ∧ reg8 r2 t = reg8 r1 st ∧ reg8 r1 t = reg8 r2 st ∧
    (∀ q, q ≠ r1 → q ≠ r2 → reg8 q t = reg8 q st) ∧
    t = { st with a := t.a, b := t.b, cc := t.cc, dp := t.dp })

/-- SEX sign-extends B into D, N and Z from D; ABX adds B unsigned to X mod 2^16 and writes no flag (R310, R311). -/
def Obligations.SignExtendAddB : Prop :=
  ∀ st : State,
    (∃ a' cc' : Byte, exec .sex st = .next { st with a := a', cc := cc' } ∧
      a' = (if 128 ≤ st.b.toNat then 0xFF#8 else 0x00#8) ∧ getFlag .n cc' = decide (128 ≤ st.b.toNat) ∧
      getFlag .z cc' = decide (st.b.toNat = 0) ∧ Keeps [.e, .f, .h, .i, .v, .c] st.cc cc') ∧
    exec .abx st = .next { st with x := BitVec.ofNat 16 (st.x.toNat + st.b.toNat) }

/-- CC is `E F H I N Z V C` from bit 7 down (R26): a flag reads as it was written, and writing it leaves the seven others
(R26, R27). ANDCC clears the flags whose bit in the operand is 0, ORCC sets those whose bit is 1, and they change nothing
else; NOP changes nothing (R316 to R318). -/
def Obligations.ConditionCodes : Prop :=
  (∀ cc : Byte, cc.toNat = 128 * (getFlag .e cc).toNat + 64 * (getFlag .f cc).toNat + 32 * (getFlag .h cc).toNat +
      16 * (getFlag .i cc).toNat + 8 * (getFlag .n cc).toNat + 4 * (getFlag .z cc).toNat +
      2 * (getFlag .v cc).toNat + (getFlag .c cc).toNat) ∧
  (∀ (g fl : Flag) (on : Bool) (cc : Byte),
    getFlag g (setFlag fl on cc) = if g = fl then on else getFlag g cc) ∧
  ∀ (ii : Byte) (st : State),
    (∃ cc' : Byte, exec (.andcc ii) st = .next { st with cc := cc' } ∧
      ∀ fl, getFlag fl cc' = (getFlag fl st.cc && ii.getLsbD (flagBit fl))) ∧
    (∃ cc' : Byte, exec (.orcc ii) st = .next { st with cc := cc' } ∧
      ∀ fl, getFlag fl cc' = (getFlag fl st.cc || ii.getLsbD (flagBit fl))) ∧
    exec .nop st = .next st

/-- PSHS and PSHU: with room in RAM the selected registers lie from the new pointer upward in the order CC, A, B, DP, X, Y,
the other pointer, PC, and nothing else changes; without room the first byte in ROM faults (R300, R301, R306, R312,
R314). -/
def Obligations.Push : Prop := PushResult .pshs .s ∧ PushResult .pshu .u

/-- PULS and PULU load the selected registers in that order, never fault and write no memory (R302, R303, R307, R313,
R315). -/
def Obligations.Pull : Prop := PullResult .puls .s ∧ PullResult .pulu .u

/-- A pull with the mask of a push, from the memory and the pointer the push left, restores every pushed register and the
pointer, whatever the registers held in between (R307). -/
def Obligations.PushPull : Prop :=
  ∀ (mm : Byte) (st t w : State),
    (PushFits .s (layout .s mm st).length st → exec (.pshs mm) st = .next t → w.mem = t.mem → w.s = t.s →
      ∃ w', exec (.puls mm) w = .next w' ∧ w'.s = st.s ∧ layout .s mm w' = layout .s mm st) ∧
    (PushFits .u (layout .u mm st).length st → exec (.pshu mm) st = .next t → w.mem = t.mem → w.u = t.u →
      ∃ w', exec (.pulu mm) w = .next w' ∧ w'.u = st.u ∧ layout .u mm w' = layout .u mm st)

/-! ## Control transfer (spec/46_control_transfer.md) -/

/-- The sixteen short branches: taken exactly for the values of the nibble N:Z:V:C that R331 lists; the target is relative
to the next instruction; no flag and no register but PC changes (R330 to R347). -/
def Obligations.ShortBranches : Prop :=
  Branch8Result .bra [0, 1, 2, 3, 4, 5, 6, 7, 8, 9, 10, 11, 12, 13, 14, 15] ∧ Branch8Result .brn [] ∧
  Branch8Result .bhi [0, 2, 8, 10] ∧ Branch8Result .bls [1, 3, 4, 5, 6, 7, 9, 11, 12, 13, 14, 15] ∧
  Branch8Result .bcc [0, 2, 4, 6, 8, 10, 12, 14] ∧ Branch8Result .bcs [1, 3, 5, 7, 9, 11, 13, 15] ∧
  Branch8Result .bne [0, 1, 2, 3, 8, 9, 10, 11] ∧ Branch8Result .beq [4, 5, 6, 7, 12, 13, 14, 15] ∧
  Branch8Result .bvc [0, 1, 4, 5, 8, 9, 12, 13] ∧ Branch8Result .bvs [2, 3, 6, 7, 10, 11, 14, 15] ∧
  Branch8Result .bpl [0, 1, 2, 3, 4, 5, 6, 7] ∧ Branch8Result .bmi [8, 9, 10, 11, 12, 13, 14, 15] ∧
  Branch8Result .bge [0, 1, 4, 5, 10, 11, 14, 15] ∧ Branch8Result .blt [2, 3, 6, 7, 8, 9, 12, 13] ∧
  Branch8Result .bgt [0, 1, 10, 11] ∧ Branch8Result .ble [2, 3, 4, 5, 6, 7, 8, 9, 12, 13, 14, 15]

/-- The sixteen long branches, with the same conditions (R330, R331, R348 to R363). -/
def Obligations.LongBranches : Prop :=
  Branch16Result .lbra [0, 1, 2, 3, 4, 5, 6, 7, 8, 9, 10, 11, 12, 13, 14, 15] ∧ Branch16Result .lbrn [] ∧
  Branch16Result .lbhi [0, 2, 8, 10] ∧ Branch16Result .lbls [1, 3, 4, 5, 6, 7, 9, 11, 12, 13, 14, 15] ∧
  Branch16Result .lbcc [0, 2, 4, 6, 8, 10, 12, 14] ∧ Branch16Result .lbcs [1, 3, 5, 7, 9, 11, 13, 15] ∧
  Branch16Result .lbne [0, 1, 2, 3, 8, 9, 10, 11] ∧ Branch16Result .lbeq [4, 5, 6, 7, 12, 13, 14, 15] ∧
  Branch16Result .lbvc [0, 1, 4, 5, 8, 9, 12, 13] ∧ Branch16Result .lbvs [2, 3, 6, 7, 10, 11, 14, 15] ∧
  Branch16Result .lbpl [0, 1, 2, 3, 4, 5, 6, 7] ∧ Branch16Result .lbmi [8, 9, 10, 11, 12, 13, 14, 15] ∧
  Branch16Result .lbge [0, 1, 4, 5, 10, 11, 14, 15] ∧ Branch16Result .lblt [2, 3, 6, 7, 8, 9, 12, 13] ∧
  Branch16Result .lbgt [0, 1, 10, 11] ∧ Branch16Result .lble [2, 3, 4, 5, 6, 7, 8, 9, 12, 13, 14, 15]

/-- BSR, LBSR and JSR push the address of the next instruction on S and go to their target; JSR computes its address
first; a push into ROM faults with PC still the return address (R364, R365, R367). -/
def Obligations.Calls : Prop :=
  (∀ (o : Byte) (st : State), Called (BitVec.ofInt 16 (st.pc.toNat + o.toInt)) st (exec (.bsr o) st)) ∧
  (∀ (o : Word) (st : State), Called (BitVec.ofNat 16 (st.pc.toNat + o.toNat)) st (exec (.lbsr o) st)) ∧
  (∀ (m : MemMode) (st : State), Called (ea m st).1 (ea m st).2 (exec (.jsr m) st))

/-- JMP goes to the effective address; RTS goes to the word at S and moves S up by 2; neither writes memory or a flag
(R366, R368). -/
def Obligations.JumpReturn : Prop :=
  (∀ (m : MemMode) (st : State), exec (.jmp m) st = .next { (ea m st).2 with pc := (ea m st).1 }) ∧
  (∀ st : State, exec .rts st = .next { st with
    pc := BitVec.ofNat 16 (256 * (readByte st st.s).toNat + (readByte st (st.s + 1)).toNat)
    s := BitVec.ofNat 16 (st.s.toNat + 2) })

/-! ## Placeholders and page bytes (spec/47_system_placeholders.md, spec/30_encoding.md) -/

/-- Under `nop` each placeholder changes nothing; under `fault` each raises PlaceholderInstruction with its mnemonic and
the address of its first byte, and changes nothing else (R380 to R386). -/
def Obligations.PlaceholderModes : Prop :=
  ∀ (st : State) (ii : Byte) (i : Instr) (which : Placeholder) (n : Nat),
    (i, which, n) ∈ [(.swi, .swi, 1), (.swi2, .swi2, 2), (.swi3, .swi3, 2), (.rti, .rti, 1),
      (.cwai ii, .cwai, 2), (.sync, Placeholder.sync, 1)] →
    (st.launch.placeholder = .nop → exec i st = .next st) ∧
    (st.launch.placeholder = .fault ∨ (st.launch.placeholder = .mc6809 ∧ (which = .cwai ∨ which = .sync)) →
      exec i st = .fault (.placeholderInstruction which (st.pc - BitVec.ofNat 16 n)
        { st with runState := .stopped
                  report := some (.fault (.placeholderInstruction which (st.pc - BitVec.ofNat 16 n))) }))

/-- SWI, SWI2 and SWI3 under `mc6809`: E is set, all twelve bytes are pushed on S, SWI masks with I and F, and PC is the
word at the vector; a push into ROM faults with E set (R381 to R383). -/
def Obligations.SoftwareInterrupts : Prop :=
  ∀ (st : State) (i : Instr) (vector : Addr) (masks : Bool),
    (i, vector, masks) ∈ [(Instr.swi, 0xFFFA#16, true), (.swi2, 0xFFF4#16, false), (.swi3, 0xFFF2#16, false)] →
    st.launch.placeholder = .mc6809 →
    ∃ cc1 cc2 : Byte, getFlag .e cc1 = true ∧ Keeps [.f, .h, .i, .n, .z, .v, .c] st.cc cc1 ∧
      getFlag .i cc2 = (masks || getFlag .i st.cc) ∧ getFlag .f cc2 = (masks || getFlag .f st.cc) ∧
      Keeps [.e, .h, .n, .z, .v, .c] cc1 cc2 ∧
      (PushFits .s 12 st → ∃ t, Pushed .s (layout .s 0xFF#8 { st with cc := cc1 }) { st with cc := cc1 } t ∧
        exec i st = .next { t with cc := cc2, pc := readWord st vector }) ∧
      (¬ PushFits .s 12 st →
        PushFaults .s (layout .s 0xFF#8 { st with cc := cc1 }) { st with cc := cc1 } (exec i st))

/-- RTI under `mc6809`: CC is pulled first, and its E says whether the other registers are pulled before PC (R384). -/
def Obligations.InterruptReturn : Prop :=
  ∀ st : State, st.launch.placeholder = .mc6809 →
    (getFlag .e (readByte st st.s) = true → ∃ t, exec .rti st = .next t ∧ Pulled .s 0xFF#8 st t) ∧
    (getFlag .e (readByte st st.s) = false → ∃ t, exec .rti st = .next t ∧ Pulled .s 0x81#8 st t)

/-- RTI after SWI under `mc6809` restores every register and S; CC comes back with E set; no byte of memory but the twelve
below S has changed (R381, R384). -/
def Obligations.InterruptRoundTrip : Prop :=
  ∀ (st t : State), st.launch.placeholder = .mc6809 → PushFits .s 12 st → exec .swi st = .next t →
    ∃ w, exec .rti t = .next w ∧ getFlag .e w.cc = true ∧ Keeps [.f, .h, .i, .n, .z, .v, .c] st.cc w.cc ∧
      w = { st with cc := w.cc, mem := w.mem, stackTouched := w.stackTouched } ∧
      ∀ a : Addr, (a.toNat < st.s.toNat - 12 ∨ st.s.toNat ≤ a.toNat) → readByte w a = readByte st a

/-- A page byte before an empty slot raises UnknownOpcode with the page, the opcode byte and the address of the page byte,
and changes nothing else (R83, R108, R401). -/
def Obligations.PageBytesFault : Prop :=
  ∀ (op : Byte) (st : State),
    exec (.prefixPage2 op) st = .fault (.unknownOpcode .page2 op (st.pc - 2)
      { st with runState := .stopped, report := some (.fault (.unknownOpcode .page2 op (st.pc - 2))) }) ∧
    exec (.prefixPage3 op) st = .fault (.unknownOpcode .page3 op (st.pc - 2)
      { st with runState := .stopped, report := some (.fault (.unknownOpcode .page3 op (st.pc - 2))) })

/-! ## The step (spec/60_exceptions.md) -/

/-- Where no boundary test holds and the bytes at PC decode to an instruction of `n` bytes, a step executes it: PC is past
its bytes, the count is one more, and the run state is `Paused` unless the loop is running (R24, R413, R415). -/
def Obligations.StepRunsDecoded : Prop :=
  ∀ (st : State) (i : Instr) (n : Nat), MayRun st → decode (fetchBytes st) = .ok (i, n) →
    (∀ k < 5, byteAt (fetchBytes st) k = readByte st (BitVec.ofNat 16 (st.pc.toNat + k))) ∧
    step st = exec i { st with
      pc := BitVec.ofNat 16 (st.pc.toNat + n)
      instrCount := st.instrCount + 1
      runState := if st.runState = .running then .running else .paused }

/-- Bytes that are no instruction: the fault of R401 with its info, PC past the byte that shows it, the count one more, and
nothing else changed. -/
def Obligations.StepBadBytes : Prop :=
  ∀ (st : State) (e : DecodeError), MayRun st → decode (fetchBytes st) = .error e →
    match e with
    | .unknownOpcode op => step st = .fault (.unknownOpcode .page1 op st.pc
        { st with pc := st.pc + 1, instrCount := st.instrCount + 1, runState := .stopped
                  report := some (.fault (.unknownOpcode .page1 op st.pc)) })
    | .illegalPostByte n pb => n ∈ [1, 2] ∧ undefinedSubMode pb = true ∧
        readByte st (st.pc + BitVec.ofNat 16 n) = pb ∧
        step st = .fault (.illegalPostByte pb (st.pc + BitVec.ofNat 16 n)
          { st with pc := st.pc + BitVec.ofNat 16 (n + 1), instrCount := st.instrCount + 1, runState := .stopped
                    report := some (.fault (.illegalPostByte pb (st.pc + BitVec.ofNat 16 n))) })
    | .illegalRegisterCode n pb => n = 1 ∧ validPair pb = false ∧ readByte st (st.pc + 1) = pb ∧
        step st = .fault (.illegalRegisterCode pb (st.pc + 1)
          { st with pc := st.pc + 2, instrCount := st.instrCount + 1, runState := .stopped
                    report := some (.fault (.illegalRegisterCode pb (st.pc + 1))) })

/-- The boundary tests in their order: Terminated, PCBeforeStart, BudgetExceeded; each executes nothing and changes nothing
but the run state and the report (R406, R410 to R412). With `PROG_START` above `PROG_END` one of the first two always holds
(R444). -/
def Obligations.BoundaryOrder : Prop :=
  ∀ st : State, st.runState ≠ .stopped →
    (st.launch.progEnd ≤ st.pc.toNat → step st = .next { st with
      runState := .stopped
      report := some (.terminated st.pc st.instrCount st.launch.endLine) }) ∧
    (st.pc.toNat < st.launch.progEnd → st.pc.toNat < st.launch.progStart.toNat →
      step st = .fault (.pcBeforeStart st.pc { st with
        runState := .stopped, report := some (.fault (.pcBeforeStart st.pc)) })) ∧
    (st.pc.toNat < st.launch.progEnd → st.launch.progStart.toNat ≤ st.pc.toNat →
      st.launch.instrCeiling ≤ st.instrCount →
      step st = .fault (.budgetExceeded st.instrCount { st with
        runState := .stopped, report := some (.fault (.budgetExceeded st.instrCount)) })) ∧
    (st.launch.progEnd < st.launch.progStart.toNat →
      st.launch.progEnd ≤ st.pc.toNat ∨ st.pc.toNat < st.launch.progStart.toNat)

/-- Every fault leaves the machine in `Stopped` with the fault as its report (R400, R404); after a fault or a termination a
further step changes nothing and reports the same outcome again (R404, R410, R420). That a termination is a next state is the
model's choice (log 2). -/
def Obligations.StoppedAgain : Prop :=
  (∀ (st : State) (f : Fault), step st = .fault f → st.runState ≠ .stopped →
    (faultLeft f).runState = .stopped ∧ (faultLeft f).report = some (.fault (faultInfo f))) ∧
  (∀ (st : State) (f : Fault), step st = .fault f → step (faultLeft f) = .fault f) ∧
  (∀ st t : State, step st = .next t → t.runState = .stopped → step t = .next t)

/-- An instruction's own faults are RomWrite, of an instruction that writes memory; PlaceholderInstruction, of a
placeholder; and UnknownOpcode, of a page byte. No instruction is refused (R401, R402, R451). -/
def Obligations.WhichFaults : Prop :=
  ∀ (i : Instr) (st : State), match exec i st with
    | .next _ => isPageByte i = false
    | .refused _ => False
    | .fault f => match faultInfo f with
      | .romWrite a => writesMem i = true ∧ 0x8000 ≤ a.toNat
      | .placeholderInstruction _ _ => isPlaceholder i = true ∧ st.launch.placeholder ≠ .nop
      | .unknownOpcode _ _ _ => isPageByte i = true
      | _ => False

/-- The invariant holds at reset (R38, R46). -/
def Obligations.InvAtReset : Prop := MachineInv State.reset

/-- Every step that answers a next state keeps the invariant: canonical memory, `PROG_END` in its range, the count within the ceiling (R38), an
outcome reported only in `Stopped`, only RAM touched by pushes. -/
def Obligations.InvKept : Prop :=
  ∀ st t : State, MachineInv st → step st = .next t → MachineInv t

/-- No step changes a byte of ROM, whether it completes or faults (R51, R54, R402). -/
def Obligations.RomUnchanged : Prop :=
  ∀ (st : State) (a : Addr), 0x8000 ≤ a.toNat →
    (∀ t, step st = .next t → readByte t a = readByte st a) ∧
    (∀ f, step st = .fault f → readByte (faultLeft f) a = readByte st a)

/-- No step changes a launch parameter or the pause, stop, skip and load flags (R41, R421; the load flag is the
model's choice, log 18): no instruction can reach the controller (R35, R44).
A step that executes an instruction counts one; one that ends the run or finds it ended counts none (R410, R415). -/
def Obligations.StepFrame : Prop :=
  ∀ st t : State, step st = .next t →
    (t.launch = st.launch ∧ t.pauseFlag = st.pauseFlag ∧ t.stopFlag = st.stopFlag ∧
      t.skipBreakpoint = st.skipBreakpoint ∧ t.resetDue = st.resetDue) ∧
    (MayRun st → t.instrCount = st.instrCount + 1 ∧ t.report = st.report ∧
      t.runState = (if st.runState = .running then .running else .paused)) ∧
    (¬ MayRun st → t.runState = .stopped ∧ t = { st with runState := t.runState, report := t.report })

/-- H is written by the 8-bit additions and by whole-register writes of CC only; E, F and I by whole-register writes, and
by the software interrupts under `mc6809` (R32 to R34). -/
def Obligations.WhoWritesMasks : Prop :=
  ∀ (i : Instr) (st t : State), exec i st = .next t → writesCCWhole i = false →
    (isAdd8 i = false → getFlag .h t.cc = getFlag .h st.cc) ∧
    (¬ (isSwi i = true ∧ st.launch.placeholder = .mc6809) →
      getFlag .e t.cc = getFlag .e st.cc ∧ getFlag .f t.cc = getFlag .f st.cc ∧ getFlag .i t.cc = getFlag .i st.cc)

/-- DP is written by TFR/EXG with its code and by pulls with mask bit 3 only, and by RTI under `mc6809` (R36); PC is written,
other than by fetching, by the instructions of R370 only. -/
def Obligations.WhoWritesDPAndPC : Prop :=
  ∀ (i : Instr) (st t : State), exec i st = .next t →
    (writesDP i = false → t.dp = st.dp) ∧ (writesPC i = false → t.pc = st.pc)

/-- Memory and the stack-touched set are left alone by every instruction that neither stores, nor rewrites a memory byte,
nor pushes (R61, R402). -/
def Obligations.WhoWritesMemory : Prop :=
  ∀ (i : Instr) (st t : State), exec i st = .next t → writesMem i = false →
    t.mem = st.mem ∧ t.stackTouched = st.stackTouched

/-- A run ends within `INSTR_CEILING` instructions and one more step: from every state, so many steps reach a fault or
`Stopped` (R412, R423, R453). -/
def Obligations.RunsEnd : Prop :=
  ∀ st : State, ∃ n ≤ st.launch.instrCeiling - st.instrCount + 1,
    (∃ f, Sys2Proof.core.run n st = .fault f) ∨
    (∃ t, Sys2Proof.core.run n st = .next t ∧ t.runState = .stopped)

/-! ## Reset and the step controller (spec/60_exceptions.md, spec/70_reset_and_hazards.md) -/

/-- Reset is refused while `Running` and changes nothing then; otherwise it leaves every element at the value of R46, for
every launch parameter, and the launch parameters unchanged (R440, R441). Where the image holds the emitted bytes and the
bounds are ordered, every launch premise of R446 holds after it. That no reset is due after it, which the premise
`nothing_in_flight` is read to include, is about the flag by which the model keeps a load before `reset()` (R447): the
model's choice (log 18). -/
def Obligations.ResetCall : Prop :=
  ∀ st : State,
    (st.runState = .running → hostCall .reset st = .refused (.callNotAllowed .running)) ∧
    (st.runState ≠ .running → ∃ t, hostCall .reset st = .next t ∧
      t.pc = st.launch.progStart ∧ t.dp = 0 ∧ t.a = st.launch.resetA ∧ t.b = st.launch.resetB ∧
      t.x = st.launch.resetX ∧ t.y = st.launch.resetY ∧ t.u = st.launch.resetU ∧ t.s = st.launch.resetS ∧
      t.cc = st.launch.resetCC ∧ t.mem = st.launch.memImage ∧ t.instrCount = 0 ∧ t.runState = .idle ∧
      t.pauseFlag = false ∧ t.stopFlag = false ∧ t.report = none ∧ t.stackTouched = [] ∧ t.resetDue = false ∧
      t.launch = st.launch ∧
      ∀ emitted : List (Addr × Byte), ImageHolds emitted st.launch.memImage → BoundsOrdered st.launch →
        LaunchPremises emitted st.launch.instrCeiling t)

/-- One turn of the run loop: stop flag, pause flag, breakpoint, then `step()`; a hit changes no register, memory or count
(R406, R421, R422). -/
def Obligations.RunLoop : Prop :=
  ∀ st : State, st.runState = .running →
    (st.stopFlag = true → loopTurn st = .next { st with stopFlag := false, runState := .stopped }) ∧
    (st.stopFlag = false → st.pauseFlag = true →
      loopTurn st = .next { st with pauseFlag := false, runState := .paused }) ∧
    (st.stopFlag = false → st.pauseFlag = false → st.pc ∈ st.launch.breakpoints → st.skipBreakpoint = false →
      loopTurn st = .next { st with runState := .paused }) ∧
    (st.stopFlag = false → st.pauseFlag = false → (st.pc ∉ st.launch.breakpoints ∨ st.skipBreakpoint = true) →
      loopTurn st = step { st with skipBreakpoint := false })

/-- The run-state table of R420 for `run()`, `pause()`, `resume()`, `stop()` and a manual `step()`, which is not allowed
while the loop runs (R447), and the load, which is allowed in `Idle` and `Stopped` (R447, R443, R57): it writes memory and
`MEM_IMAGE`, or the bounds. Where R404 has `run()` and `resume()` in `Stopped` return the fault again, the model follows
R420: they are refused (log 22). The rest is the model's choice or inference. In the run states that R420 does not list for a
call, and that R447 does not allow, the call is refused: `run()` and `resume()` in `Running`, `run()` and `pause()` in
`Paused`, `pause()` and `stop()` in `Stopped`, a load in `Running` and `Paused` (log 13). After a load `run()` and `step()`
are refused in `Idle` until the next reset (log 18). A `PROG_END` above 0x10000 is refused (log 19). -/
def Obligations.HostCalls : Prop :=
  ∀ st : State,
    (st.runState = .idle → st.resetDue = false →
      hostCall .run st = .next { st with runState := .running, skipBreakpoint := false } ∧
      hostCall .step st = step st) ∧
    (st.runState = .idle → st.resetDue = true →
      hostCall .run st = .refused .resetRequired ∧ hostCall .step st = .refused .resetRequired) ∧
    (st.runState = .idle →
      hostCall .pause st = .next st ∧ hostCall .resume st = .next st ∧ hostCall .stop st = .next st) ∧
    (st.runState = .running →
      hostCall .pause st = .next { st with pauseFlag := true } ∧
      hostCall .stop st = .next { st with stopFlag := true } ∧
      hostCall .step st = .refused (.callNotAllowed .running) ∧
      hostCall .run st = .refused (.callNotAllowed .running) ∧
      hostCall .resume st = .refused (.callNotAllowed .running)) ∧
    (st.runState = .paused →
      hostCall .resume st =
        .next { st with runState := .running, skipBreakpoint := st.launch.resumeSkips } ∧
      hostCall .stop st = .next { st with runState := .stopped } ∧ hostCall .step st = step st ∧
      hostCall .run st = .refused (.callNotAllowed .paused) ∧
      hostCall .pause st = .refused (.callNotAllowed .paused)) ∧
    (st.runState = .stopped →
      hostCall .run st = .refused (.callNotAllowed .stopped) ∧
      hostCall .resume st = .refused (.callNotAllowed .stopped) ∧
      hostCall .pause st = .refused (.callNotAllowed .stopped) ∧
      hostCall .stop st = .refused (.callNotAllowed .stopped) ∧
      hostCall .step st = step st ∧ (∀ t, hostCall .step st = .next t → t = st)) ∧
    (st.runState = .idle ∨ st.runState = .stopped →
      (∀ (a : Addr) (v : Byte), ∃ t, hostCall (.loadByte a v) st = .next t ∧
        readByte t a = v ∧ MemKept [a] st t ∧ memGet t.launch.memImage a.toNat = v ∧
        (∀ b ≠ a.toNat, memGet t.launch.memImage b = memGet st.launch.memImage b) ∧
        t = { st with mem := t.mem, resetDue := true
                      launch := { st.launch with memImage := t.launch.memImage } }) ∧
      (∀ (lo : Addr) (hi : Nat) (line : Int), hi ≤ 0x10000 →
        hostCall (.setBounds lo hi line) st = .next { st with
          resetDue := true, launch := { st.launch with progStart := lo, progEnd := hi, endLine := line } })) ∧
    (st.runState = .running ∨ st.runState = .paused →
      (∀ (a : Addr) (v : Byte), hostCall (.loadByte a v) st = .refused (.callNotAllowed st.runState)) ∧
      (∀ (lo : Addr) (hi : Nat) (line : Int), hi ≤ 0x10000 →
        hostCall (.setBounds lo hi line) st = .refused (.callNotAllowed st.runState))) ∧
    (∀ (lo : Addr) (hi : Nat) (line : Int), 0x10000 < hi →
      hostCall (.setBounds lo hi line) st = .refused (.badProgEnd hi))
end

