-- ==== Sys2Proof/Laws/Flags.lean ====
section
/-! SUPPORT. Reading a flag after a flag was written (spec/10_state.md R26, R27). -/

namespace Sys2Proof.Machine

theorem flagBit_lt (fl : Flag) : flagBit fl < 8 := by cases fl <;> decide

/-- A flag reads as it was last written, and every other flag as before. -/
theorem getFlag_setFlag (fl g : Flag) (on : Bool) (cc : Byte) :
    getFlag g (setFlag fl on cc) = if g = fl then on else getFlag g cc := by
  cases on <;> cases fl <;> cases g <;> simp [getFlag, setFlag, flagBit]

@[simp] theorem getFlag_setFlag_same (fl : Flag) (on : Bool) (cc : Byte) :
    getFlag fl (setFlag fl on cc) = on := by simp [getFlag_setFlag]

@[simp] theorem getFlag_setFlag_other {fl g : Flag} (h : g ≠ fl) (on : Bool) (cc : Byte) :
    getFlag g (setFlag fl on cc) = getFlag g cc := by simp [getFlag_setFlag, h]

/-- The eight flags determine CC. -/
theorem cc_ext {cc cc' : Byte} (h : ∀ fl, getFlag fl cc = getFlag fl cc') : cc = cc' := by
  apply BitVec.eq_of_getLsbD_eq
  intro i hi
  have h0 := h .c; have h1 := h .v; have h2 := h .z; have h3 := h .n
  have h4 := h .i; have h5 := h .h; have h6 := h .f; have h7 := h .e
  simp only [getFlag, flagBit] at h0 h1 h2 h3 h4 h5 h6 h7
  match i, hi with
  | 0, _ => exact h0
  | 1, _ => exact h1
  | 2, _ => exact h2
  | 3, _ => exact h3
  | 4, _ => exact h4
  | 5, _ => exact h5
  | 6, _ => exact h6
  | 7, _ => exact h7

/-- `setNZ` writes N and Z from the value and keeps the other six flags. -/
theorem getFlag_setNZ {w : Nat} (g : Flag) (v : BitVec w) (cc : Byte) :
    getFlag g (setNZ v cc) = if g = .z then decide (v = 0) else if g = .n then v.msb else getFlag g cc := by
  simp only [setNZ, getFlag_setFlag]

end Sys2Proof.Machine
end

