-- ==== Sys2Proof/Laws/Alu.lean ====
section
/-! SUPPORT. Every ALU function against the relation that states its rule: result and all eight flags
(spec/41_arith_logic_8bit.md, spec/42_arith_16bit.md, spec/43_unary_shift.md). -/

namespace Sys2Proof.Machine

open Sys2Proof.Safety

/-- Two CC bytes agree on the flags of a list if they do one by one. -/
theorem keeps_iff (fs : List Flag) (cc cc' : Byte) : Keeps fs cc cc' ↔ ∀ g ∈ fs, getFlag g cc' = getFlag g cc :=
  Iff.rfl

/-- The sign rule of an addition, in the ALU's form and in the rule's. -/
theorem overflow_add {w : Nat} (a b r : BitVec w) :
    ((a ^^^ r) &&& (b ^^^ r)).msb = (a.msb == b.msb && r.msb != a.msb) := by
  rw [BitVec.msb_and, BitVec.msb_xor, BitVec.msb_xor]
  cases a.msb <;> cases b.msb <;> cases r.msb <;> rfl

/-- The sign rule of a subtraction, in the ALU's form and in the rule's. -/
theorem overflow_sub {w : Nat} (a b r : BitVec w) :
    ((a ^^^ b) &&& (a ^^^ r)).msb = (a.msb != b.msb && r.msb != a.msb) := by
  rw [BitVec.msb_and, BitVec.msb_xor, BitVec.msb_xor]
  cases a.msb <;> cases b.msb <;> cases r.msb <;> rfl

theorem add8_spec (a b : Byte) (cin : Bool) (cc : Byte) :
    SumOf a b cin (add8 a b cin cc).value (add8 a b cin cc).cc ∧ HalfCarry a b cin (add8 a b cin cc).cc ∧
      Keeps [.e, .f, .i] cc (add8 a b cin cc).cc := by
  refine ⟨⟨?_, ?_, ?_, ?_, ?_⟩, ?_, ?_⟩
  · simp [add8]
  · simp only [add8, getFlag_setFlag, getFlag_setNZ]; simp [Nat.lt_iff_add_one_le]
  · simp only [add8, getFlag_setFlag, overflow_add]; simp
  · simp only [add8, getFlag_setFlag, getFlag_setNZ]; simp
  · simp only [add8, getFlag_setFlag, getFlag_setNZ]; exact decide_eq_decide.2 Iff.rfl
  · simp only [HalfCarry, add8, getFlag_setFlag]; simp [Nat.lt_iff_add_one_le]
  · simp only [Keeps, add8, getFlag_setFlag, getFlag_setNZ]; simp

theorem add16_spec (a b : Word) (cc : Byte) :
    SumOf a b false (add16 a b cc).value (add16 a b cc).cc ∧ Keeps [.e, .f, .h, .i] cc (add16 a b cc).cc := by
  refine ⟨⟨?_, ?_, ?_, ?_, ?_⟩, ?_⟩
  · simp [add16]
  · simp only [add16, getFlag_setFlag, getFlag_setNZ]; simp [Nat.lt_iff_add_one_le]
  · simp only [add16, getFlag_setFlag, overflow_add]; simp
  · simp only [add16, getFlag_setFlag, getFlag_setNZ]; simp
  · simp only [add16, getFlag_setFlag, getFlag_setNZ]; exact decide_eq_decide.2 Iff.rfl
  · simp only [Keeps, add16, getFlag_setFlag, getFlag_setNZ]; simp

theorem sub8_spec (a b : Byte) (bin : Bool) (cc : Byte) :
    DifferenceOf a b bin (sub8 a b bin cc).value (sub8 a b bin cc).cc ∧
      Keeps [.e, .f, .h, .i] cc (sub8 a b bin cc).cc := by
  have hb : bin.toNat ≤ 1 := Bool.toNat_le bin
  refine ⟨⟨?_, ?_, ?_, ?_, ?_⟩, ?_⟩
  · have h1 := a.isLt; have h2 := b.isLt
    simp only [sub8, BitVec.toNat_ofInt]; omega
  · simp only [sub8, getFlag_setFlag, getFlag_setNZ]; simp; omega
  · simp only [sub8, getFlag_setFlag, overflow_sub]; simp
  · simp only [sub8, getFlag_setFlag, getFlag_setNZ]; simp
  · simp only [sub8, getFlag_setFlag, getFlag_setNZ]; exact decide_eq_decide.2 Iff.rfl
  · simp only [Keeps, sub8, getFlag_setFlag, getFlag_setNZ]; simp

theorem sub16_spec (a b : Word) (cc : Byte) :
    DifferenceOf a b false (sub16 a b cc).value (sub16 a b cc).cc ∧
      Keeps [.e, .f, .h, .i] cc (sub16 a b cc).cc := by
  refine ⟨⟨?_, ?_, ?_, ?_, ?_⟩, ?_⟩
  · have h1 := a.isLt; have h2 := b.isLt
    simp only [sub16, BitVec.toNat_ofInt, Bool.toNat_false]; omega
  · simp only [sub16, getFlag_setFlag, getFlag_setNZ]; exact decide_eq_decide.2 (by simp only [Bool.toNat_false]; omega)
  · simp only [sub16, getFlag_setFlag, overflow_sub]; simp
  · simp only [sub16, getFlag_setFlag, getFlag_setNZ]; simp
  · simp only [sub16, getFlag_setFlag, getFlag_setNZ]; exact decide_eq_decide.2 Iff.rfl
  · simp only [Keeps, sub16, getFlag_setFlag, getFlag_setNZ]; simp

/-- N and Z from a value, the other six flags kept. -/
theorem setNZ_spec {w : Nat} (v : BitVec w) (cc : Byte) :
    NZ v (setNZ v cc) ∧ Keeps [.e, .f, .h, .i, .v, .c] cc (setNZ v cc) := by
  constructor
  · constructor <;> simp [getFlag_setNZ]
  · simp [Keeps, getFlag_setNZ]

theorem logic8_spec (r cc : Byte) :
    (logic8 r cc).value = r ∧ NZ r (logic8 r cc).cc ∧ getFlag .v (logic8 r cc).cc = false ∧
      Keeps [.e, .f, .h, .i, .c] cc (logic8 r cc).cc := by
  refine ⟨rfl, ⟨?_, ?_⟩, ?_, ?_⟩ <;> simp [logic8, Keeps, getFlag_setFlag, getFlag_setNZ]

theorem mul8_spec (a b cc : Byte) :
    (mul8 a b cc).value.toNat = a.toNat * b.toNat ∧
      getFlag .z (mul8 a b cc).cc = decide ((mul8 a b cc).value.toNat = 0) ∧
      getFlag .c (mul8 a b cc).cc = decide (128 ≤ (mul8 a b cc).value.toNat % 256) ∧
      Keeps [.e, .f, .h, .i, .n, .v] cc (mul8 a b cc).cc := by
  have h : a.toNat * b.toNat < 65536 :=
    Nat.lt_of_le_of_lt (Nat.mul_le_mul (Nat.le_of_lt_succ a.isLt) (Nat.le_of_lt_succ b.isLt)) (by decide)
  refine ⟨?_, ?_, ?_, ?_⟩
  · simpa [mul8] using h
  · simp only [mul8, getFlag_setFlag]; simp [← BitVec.toNat_inj]
  · have hc : getFlag .c (mul8 a b cc).cc = (mul8 a b cc).value.getLsbD 7 := by simp [mul8]
    rw [hc, BitVec.getLsbD, Nat.testBit_eq_decide_div_mod_eq, decide_eq_decide]
    omega
  · simp [mul8, Keeps, getFlag_setFlag]

/-! ## One operand -/

/-! ### Values, byte by byte -/

theorem neg_value : ∀ m : Byte,
    (BitVec.ofInt 8 ((0 : Byte).toNat - m.toNat - false.toNat)).toNat = (256 - m.toNat) % 256 ∧
    ((0 ^^^ m) &&& (0 ^^^ BitVec.ofInt 8 ((0 : Byte).toNat - m.toNat - false.toNat))).msb = decide (m.toNat = 0x80) := by
  decide

theorem asr_value : ∀ m : Byte, ((m >>> 1) ||| (m &&& 0x80#8)).toInt = m.toInt / 2 := by decide

theorem rol_value : ∀ (c : Bool) (m : Byte),
    ((m <<< 1) ||| (if c then 0x01#8 else 0x00#8)).toNat = (2 * m.toNat + c.toNat) % 256 := by decide

theorem ror_value : ∀ (c : Bool) (m : Byte),
    ((m >>> 1) ||| (if c then 0x80#8 else 0x00#8)).toNat = m.toNat / 2 + 128 * c.toNat := by decide

theorem neg8_spec (m cc : Byte) : NegOf m cc (neg8 m cc).value (neg8 m cc).cc := by
  obtain ⟨⟨-, h2, -, h4⟩, h5⟩ := sub8_spec 0 m false cc
  have hm := m.isLt
  refine ⟨(neg_value m).1, h4, ?_, ?_, h5⟩
  · rw [neg8, h2, decide_eq_decide, Ne, ← BitVec.toNat_inj, Bool.toNat_false, show (0 : Byte).toNat = 0 from rfl]
    omega
  · simp only [neg8, sub8, getFlag_setFlag]; exact (neg_value m).2

theorem com8_spec (m cc : Byte) : ComOf m cc (com8 m cc).value (com8 m cc).cc := by
  have h : m ^^^ 0xFF#8 = ~~~m := BitVec.xor_allOnes
  refine ⟨?_, ⟨?_, ?_⟩, ?_, ?_, ?_⟩
  · simp only [com8, h, BitVec.toNat_not]
  all_goals simp [com8, Keeps, getFlag_setFlag, getFlag_setNZ]

theorem inc8_spec (m cc : Byte) : IncOf m cc (inc8 m cc).value (inc8 m cc).cc := by
  refine ⟨?_, ⟨?_, ?_⟩, ?_, ?_⟩
  · simp [inc8]
  all_goals simp [inc8, Keeps, getFlag_setFlag, getFlag_setNZ, ← BitVec.toNat_inj]

theorem dec8_spec (m cc : Byte) : DecOf m cc (dec8 m cc).value (dec8 m cc).cc := by
  refine ⟨?_, ⟨?_, ?_⟩, ?_, ?_⟩
  · simp [dec8, BitVec.toNat_sub]; omega
  all_goals simp [dec8, Keeps, getFlag_setFlag, getFlag_setNZ, ← BitVec.toNat_inj]

theorem tst8_spec (m cc : Byte) : TstOf m cc (tst8 m cc).cc := by
  refine ⟨⟨?_, ?_⟩, ?_, ?_⟩ <;> simp [tst8, Keeps, getFlag_setFlag, getFlag_setNZ]

theorem clr8_spec (m cc : Byte) : ClrOf m cc (clr8 cc).value (clr8 cc).cc := by
  refine ⟨rfl, ?_, ?_, ?_, ?_, ?_⟩ <;> simp [clr8, Keeps, getFlag_setFlag]

theorem asl8_spec (m cc : Byte) : AslOf m cc (asl8 m cc).value (asl8 m cc).cc := by
  refine ⟨?_, ⟨?_, ?_⟩, ?_, ?_, ?_⟩
  · simp [asl8, BitVec.toNat_shiftLeft, Nat.shiftLeft_eq, Nat.mul_comm]
  all_goals simp [asl8, Keeps, getFlag_setFlag, getFlag_setNZ]

theorem asr8_spec (m cc : Byte) : AsrOf m cc (asr8 m cc).value (asr8 m cc).cc := by
  refine ⟨asr_value m, ⟨?_, ?_⟩, ?_, ?_⟩
  all_goals simp [asr8, Keeps, getFlag_setFlag, getFlag_setNZ]

theorem lsr8_spec (m cc : Byte) : LsrOf m cc (lsr8 m cc).value (lsr8 m cc).cc := by
  refine ⟨?_, ⟨?_, ?_⟩, ?_, ?_⟩
  · simp [lsr8, Nat.shiftRight_eq_div_pow]
  all_goals simp [lsr8, Keeps, getFlag_setFlag, getFlag_setNZ]

theorem rol8_spec (m cc : Byte) : RolOf m cc (rol8 m cc).value (rol8 m cc).cc := by
  refine ⟨rol_value _ m, ⟨?_, ?_⟩, ?_, ?_, ?_⟩
  all_goals simp [rol8, Keeps, getFlag_setFlag, getFlag_setNZ]

theorem ror8_spec (m cc : Byte) : RorOf m cc (ror8 m cc).value (ror8 m cc).cc := by
  refine ⟨ror_value _ m, ⟨?_, ?_⟩, ?_, ?_⟩
  all_goals simp [ror8, Keeps, getFlag_setFlag, getFlag_setNZ]

end Sys2Proof.Machine
end

