-- ==== Sys2Proof/Laws/State.lean ====
section
/-! SUPPORT. What each update of the state leaves in each field, so that no proof unfolds a record update. -/

namespace Sys2Proof.Machine

@[simp] theorem storeByte_a (p : Addr) (v : Byte) (st : State) : (storeByte p v st).a = st.a := rfl
@[simp] theorem storeByte_b (p : Addr) (v : Byte) (st : State) : (storeByte p v st).b = st.b := rfl
@[simp] theorem storeByte_dp (p : Addr) (v : Byte) (st : State) : (storeByte p v st).dp = st.dp := rfl
@[simp] theorem storeByte_cc (p : Addr) (v : Byte) (st : State) : (storeByte p v st).cc = st.cc := rfl
@[simp] theorem storeByte_x (p : Addr) (v : Byte) (st : State) : (storeByte p v st).x = st.x := rfl
@[simp] theorem storeByte_y (p : Addr) (v : Byte) (st : State) : (storeByte p v st).y = st.y := rfl
@[simp] theorem storeByte_u (p : Addr) (v : Byte) (st : State) : (storeByte p v st).u = st.u := rfl
@[simp] theorem storeByte_s (p : Addr) (v : Byte) (st : State) : (storeByte p v st).s = st.s := rfl
@[simp] theorem storeByte_pc (p : Addr) (v : Byte) (st : State) : (storeByte p v st).pc = st.pc := rfl
@[simp] theorem storeByte_mem (p : Addr) (v : Byte) (st : State) : (storeByte p v st).mem = memSet st.mem p.toNat v := rfl
@[simp] theorem storeByte_runState (p : Addr) (v : Byte) (st : State) : (storeByte p v st).runState = st.runState := rfl
@[simp] theorem storeByte_instrCount (p : Addr) (v : Byte) (st : State) : (storeByte p v st).instrCount = st.instrCount := rfl
@[simp] theorem storeByte_pauseFlag (p : Addr) (v : Byte) (st : State) : (storeByte p v st).pauseFlag = st.pauseFlag := rfl
@[simp] theorem storeByte_stopFlag (p : Addr) (v : Byte) (st : State) : (storeByte p v st).stopFlag = st.stopFlag := rfl
@[simp] theorem storeByte_skipBreakpoint (p : Addr) (v : Byte) (st : State) : (storeByte p v st).skipBreakpoint = st.skipBreakpoint := rfl
@[simp] theorem storeByte_resetDue (p : Addr) (v : Byte) (st : State) : (storeByte p v st).resetDue = st.resetDue := rfl
@[simp] theorem storeByte_report (p : Addr) (v : Byte) (st : State) : (storeByte p v st).report = st.report := rfl
@[simp] theorem storeByte_stackTouched (p : Addr) (v : Byte) (st : State) : (storeByte p v st).stackTouched = st.stackTouched := rfl
@[simp] theorem storeByte_launch (p : Addr) (v : Byte) (st : State) : (storeByte p v st).launch = st.launch := rfl

@[simp] theorem setCC_a (v : Byte) (st : State) : (setCC v st).a = st.a := rfl
@[simp] theorem setCC_b (v : Byte) (st : State) : (setCC v st).b = st.b := rfl
@[simp] theorem setCC_dp (v : Byte) (st : State) : (setCC v st).dp = st.dp := rfl
@[simp] theorem setCC_cc (v : Byte) (st : State) : (setCC v st).cc = v := rfl
@[simp] theorem setCC_x (v : Byte) (st : State) : (setCC v st).x = st.x := rfl
@[simp] theorem setCC_y (v : Byte) (st : State) : (setCC v st).y = st.y := rfl
@[simp] theorem setCC_u (v : Byte) (st : State) : (setCC v st).u = st.u := rfl
@[simp] theorem setCC_s (v : Byte) (st : State) : (setCC v st).s = st.s := rfl
@[simp] theorem setCC_pc (v : Byte) (st : State) : (setCC v st).pc = st.pc := rfl
@[simp] theorem setCC_mem (v : Byte) (st : State) : (setCC v st).mem = st.mem := rfl
@[simp] theorem setCC_runState (v : Byte) (st : State) : (setCC v st).runState = st.runState := rfl
@[simp] theorem setCC_instrCount (v : Byte) (st : State) : (setCC v st).instrCount = st.instrCount := rfl
@[simp] theorem setCC_pauseFlag (v : Byte) (st : State) : (setCC v st).pauseFlag = st.pauseFlag := rfl
@[simp] theorem setCC_stopFlag (v : Byte) (st : State) : (setCC v st).stopFlag = st.stopFlag := rfl
@[simp] theorem setCC_skipBreakpoint (v : Byte) (st : State) : (setCC v st).skipBreakpoint = st.skipBreakpoint := rfl
@[simp] theorem setCC_resetDue (v : Byte) (st : State) : (setCC v st).resetDue = st.resetDue := rfl
@[simp] theorem setCC_report (v : Byte) (st : State) : (setCC v st).report = st.report := rfl
@[simp] theorem setCC_stackTouched (v : Byte) (st : State) : (setCC v st).stackTouched = st.stackTouched := rfl
@[simp] theorem setCC_launch (v : Byte) (st : State) : (setCC v st).launch = st.launch := rfl

@[simp] theorem touch_a (p : Addr) (st : State) : (touch p st).a = st.a := rfl
@[simp] theorem touch_b (p : Addr) (st : State) : (touch p st).b = st.b := rfl
@[simp] theorem touch_dp (p : Addr) (st : State) : (touch p st).dp = st.dp := rfl
@[simp] theorem touch_cc (p : Addr) (st : State) : (touch p st).cc = st.cc := rfl
@[simp] theorem touch_x (p : Addr) (st : State) : (touch p st).x = st.x := rfl
@[simp] theorem touch_y (p : Addr) (st : State) : (touch p st).y = st.y := rfl
@[simp] theorem touch_u (p : Addr) (st : State) : (touch p st).u = st.u := rfl
@[simp] theorem touch_s (p : Addr) (st : State) : (touch p st).s = st.s := rfl
@[simp] theorem touch_pc (p : Addr) (st : State) : (touch p st).pc = st.pc := rfl
@[simp] theorem touch_mem (p : Addr) (st : State) : (touch p st).mem = st.mem := rfl
@[simp] theorem touch_runState (p : Addr) (st : State) : (touch p st).runState = st.runState := rfl
@[simp] theorem touch_instrCount (p : Addr) (st : State) : (touch p st).instrCount = st.instrCount := rfl
@[simp] theorem touch_pauseFlag (p : Addr) (st : State) : (touch p st).pauseFlag = st.pauseFlag := rfl
@[simp] theorem touch_stopFlag (p : Addr) (st : State) : (touch p st).stopFlag = st.stopFlag := rfl
@[simp] theorem touch_skipBreakpoint (p : Addr) (st : State) : (touch p st).skipBreakpoint = st.skipBreakpoint := rfl
@[simp] theorem touch_resetDue (p : Addr) (st : State) : (touch p st).resetDue = st.resetDue := rfl
@[simp] theorem touch_report (p : Addr) (st : State) : (touch p st).report = st.report := rfl
@[simp] theorem touch_stackTouched (p : Addr) (st : State) : (touch p st).stackTouched = insertAddr p st.stackTouched := rfl
@[simp] theorem touch_launch (p : Addr) (st : State) : (touch p st).launch = st.launch := rfl

@[simp] theorem stopWith_a (r : Report) (st : State) : (stopWith r st).a = st.a := rfl
@[simp] theorem stopWith_b (r : Report) (st : State) : (stopWith r st).b = st.b := rfl
@[simp] theorem stopWith_dp (r : Report) (st : State) : (stopWith r st).dp = st.dp := rfl
@[simp] theorem stopWith_cc (r : Report) (st : State) : (stopWith r st).cc = st.cc := rfl
@[simp] theorem stopWith_x (r : Report) (st : State) : (stopWith r st).x = st.x := rfl
@[simp] theorem stopWith_y (r : Report) (st : State) : (stopWith r st).y = st.y := rfl
@[simp] theorem stopWith_u (r : Report) (st : State) : (stopWith r st).u = st.u := rfl
@[simp] theorem stopWith_s (r : Report) (st : State) : (stopWith r st).s = st.s := rfl
@[simp] theorem stopWith_pc (r : Report) (st : State) : (stopWith r st).pc = st.pc := rfl
@[simp] theorem stopWith_mem (r : Report) (st : State) : (stopWith r st).mem = st.mem := rfl
@[simp] theorem stopWith_runState (r : Report) (st : State) : (stopWith r st).runState = .stopped := rfl
@[simp] theorem stopWith_instrCount (r : Report) (st : State) : (stopWith r st).instrCount = st.instrCount := rfl
@[simp] theorem stopWith_pauseFlag (r : Report) (st : State) : (stopWith r st).pauseFlag = st.pauseFlag := rfl
@[simp] theorem stopWith_stopFlag (r : Report) (st : State) : (stopWith r st).stopFlag = st.stopFlag := rfl
@[simp] theorem stopWith_skipBreakpoint (r : Report) (st : State) : (stopWith r st).skipBreakpoint = st.skipBreakpoint := rfl
@[simp] theorem stopWith_resetDue (r : Report) (st : State) : (stopWith r st).resetDue = st.resetDue := rfl
@[simp] theorem stopWith_report (r : Report) (st : State) : (stopWith r st).report = some r := rfl
@[simp] theorem stopWith_stackTouched (r : Report) (st : State) : (stopWith r st).stackTouched = st.stackTouched := rfl
@[simp] theorem stopWith_launch (r : Report) (st : State) : (stopWith r st).launch = st.launch := rfl

@[simp] theorem beginInstr_a (n : Nat) (st : State) : (beginInstr n st).a = st.a := rfl
@[simp] theorem beginInstr_b (n : Nat) (st : State) : (beginInstr n st).b = st.b := rfl
@[simp] theorem beginInstr_dp (n : Nat) (st : State) : (beginInstr n st).dp = st.dp := rfl
@[simp] theorem beginInstr_cc (n : Nat) (st : State) : (beginInstr n st).cc = st.cc := rfl
@[simp] theorem beginInstr_x (n : Nat) (st : State) : (beginInstr n st).x = st.x := rfl
@[simp] theorem beginInstr_y (n : Nat) (st : State) : (beginInstr n st).y = st.y := rfl
@[simp] theorem beginInstr_u (n : Nat) (st : State) : (beginInstr n st).u = st.u := rfl
@[simp] theorem beginInstr_s (n : Nat) (st : State) : (beginInstr n st).s = st.s := rfl
@[simp] theorem beginInstr_pc (n : Nat) (st : State) : (beginInstr n st).pc = st.pc + BitVec.ofNat 16 n := rfl
@[simp] theorem beginInstr_mem (n : Nat) (st : State) : (beginInstr n st).mem = st.mem := rfl
@[simp] theorem beginInstr_runState (n : Nat) (st : State) : (beginInstr n st).runState = if st.runState = .running then .running else .paused := rfl
@[simp] theorem beginInstr_instrCount (n : Nat) (st : State) : (beginInstr n st).instrCount = st.instrCount + 1 := rfl
@[simp] theorem beginInstr_pauseFlag (n : Nat) (st : State) : (beginInstr n st).pauseFlag = st.pauseFlag := rfl
@[simp] theorem beginInstr_stopFlag (n : Nat) (st : State) : (beginInstr n st).stopFlag = st.stopFlag := rfl
@[simp] theorem beginInstr_skipBreakpoint (n : Nat) (st : State) : (beginInstr n st).skipBreakpoint = st.skipBreakpoint := rfl
@[simp] theorem beginInstr_resetDue (n : Nat) (st : State) : (beginInstr n st).resetDue = st.resetDue := rfl
@[simp] theorem beginInstr_report (n : Nat) (st : State) : (beginInstr n st).report = st.report := rfl
@[simp] theorem beginInstr_stackTouched (n : Nat) (st : State) : (beginInstr n st).stackTouched = st.stackTouched := rfl
@[simp] theorem beginInstr_launch (n : Nat) (st : State) : (beginInstr n st).launch = st.launch := rfl

@[simp] theorem setReg16_mem (r : Reg16) (v : Word) (st : State) : (setReg16 r v st).mem = st.mem := by cases r <;> rfl
@[simp] theorem setReg16_runState (r : Reg16) (v : Word) (st : State) : (setReg16 r v st).runState = st.runState := by cases r <;> rfl
@[simp] theorem setReg16_instrCount (r : Reg16) (v : Word) (st : State) : (setReg16 r v st).instrCount = st.instrCount := by cases r <;> rfl
@[simp] theorem setReg16_pauseFlag (r : Reg16) (v : Word) (st : State) : (setReg16 r v st).pauseFlag = st.pauseFlag := by cases r <;> rfl
@[simp] theorem setReg16_stopFlag (r : Reg16) (v : Word) (st : State) : (setReg16 r v st).stopFlag = st.stopFlag := by cases r <;> rfl
@[simp] theorem setReg16_skipBreakpoint (r : Reg16) (v : Word) (st : State) : (setReg16 r v st).skipBreakpoint = st.skipBreakpoint := by cases r <;> rfl
@[simp] theorem setReg16_resetDue (r : Reg16) (v : Word) (st : State) : (setReg16 r v st).resetDue = st.resetDue := by cases r <;> rfl
@[simp] theorem setReg16_report (r : Reg16) (v : Word) (st : State) : (setReg16 r v st).report = st.report := by cases r <;> rfl
@[simp] theorem setReg16_stackTouched (r : Reg16) (v : Word) (st : State) : (setReg16 r v st).stackTouched = st.stackTouched := by cases r <;> rfl
@[simp] theorem setReg16_launch (r : Reg16) (v : Word) (st : State) : (setReg16 r v st).launch = st.launch := by cases r <;> rfl

@[simp] theorem setReg8_mem (r : Reg8) (v : Byte) (st : State) : (setReg8 r v st).mem = st.mem := by cases r <;> rfl
@[simp] theorem setReg8_runState (r : Reg8) (v : Byte) (st : State) : (setReg8 r v st).runState = st.runState := by cases r <;> rfl
@[simp] theorem setReg8_instrCount (r : Reg8) (v : Byte) (st : State) : (setReg8 r v st).instrCount = st.instrCount := by cases r <;> rfl
@[simp] theorem setReg8_pauseFlag (r : Reg8) (v : Byte) (st : State) : (setReg8 r v st).pauseFlag = st.pauseFlag := by cases r <;> rfl
@[simp] theorem setReg8_stopFlag (r : Reg8) (v : Byte) (st : State) : (setReg8 r v st).stopFlag = st.stopFlag := by cases r <;> rfl
@[simp] theorem setReg8_skipBreakpoint (r : Reg8) (v : Byte) (st : State) : (setReg8 r v st).skipBreakpoint = st.skipBreakpoint := by cases r <;> rfl
@[simp] theorem setReg8_resetDue (r : Reg8) (v : Byte) (st : State) : (setReg8 r v st).resetDue = st.resetDue := by cases r <;> rfl
@[simp] theorem setReg8_report (r : Reg8) (v : Byte) (st : State) : (setReg8 r v st).report = st.report := by cases r <;> rfl
@[simp] theorem setReg8_stackTouched (r : Reg8) (v : Byte) (st : State) : (setReg8 r v st).stackTouched = st.stackTouched := by cases r <;> rfl
@[simp] theorem setReg8_launch (r : Reg8) (v : Byte) (st : State) : (setReg8 r v st).launch = st.launch := by cases r <;> rfl

@[simp] theorem advance_mem (k : Stack) (n : Word) (st : State) : (advance k n st).mem = st.mem := by cases k <;> rfl
@[simp] theorem advance_runState (k : Stack) (n : Word) (st : State) : (advance k n st).runState = st.runState := by cases k <;> rfl
@[simp] theorem advance_instrCount (k : Stack) (n : Word) (st : State) : (advance k n st).instrCount = st.instrCount := by cases k <;> rfl
@[simp] theorem advance_pauseFlag (k : Stack) (n : Word) (st : State) : (advance k n st).pauseFlag = st.pauseFlag := by cases k <;> rfl
@[simp] theorem advance_stopFlag (k : Stack) (n : Word) (st : State) : (advance k n st).stopFlag = st.stopFlag := by cases k <;> rfl
@[simp] theorem advance_skipBreakpoint (k : Stack) (n : Word) (st : State) : (advance k n st).skipBreakpoint = st.skipBreakpoint := by cases k <;> rfl
@[simp] theorem advance_resetDue (k : Stack) (n : Word) (st : State) : (advance k n st).resetDue = st.resetDue := by cases k <;> rfl
@[simp] theorem advance_report (k : Stack) (n : Word) (st : State) : (advance k n st).report = st.report := by cases k <;> rfl
@[simp] theorem advance_stackTouched (k : Stack) (n : Word) (st : State) : (advance k n st).stackTouched = st.stackTouched := by cases k <;> rfl
@[simp] theorem advance_launch (k : Stack) (n : Word) (st : State) : (advance k n st).launch = st.launch := by cases k <;> rfl

@[simp] theorem setReg16_dp (r : Reg16) (v : Word) (st : State) : (setReg16 r v st).dp = st.dp := by cases r <;> rfl
@[simp] theorem setReg16_cc (r : Reg16) (v : Word) (st : State) : (setReg16 r v st).cc = st.cc := by cases r <;> rfl

@[simp] theorem setReg8_x (r : Reg8) (v : Byte) (st : State) : (setReg8 r v st).x = st.x := by cases r <;> rfl
@[simp] theorem setReg8_y (r : Reg8) (v : Byte) (st : State) : (setReg8 r v st).y = st.y := by cases r <;> rfl
@[simp] theorem setReg8_u (r : Reg8) (v : Byte) (st : State) : (setReg8 r v st).u = st.u := by cases r <;> rfl
@[simp] theorem setReg8_s (r : Reg8) (v : Byte) (st : State) : (setReg8 r v st).s = st.s := by cases r <;> rfl
@[simp] theorem setReg8_pc (r : Reg8) (v : Byte) (st : State) : (setReg8 r v st).pc = st.pc := by cases r <;> rfl

@[simp] theorem advance_a (k : Stack) (n : Word) (st : State) : (advance k n st).a = st.a := by cases k <;> rfl
@[simp] theorem advance_b (k : Stack) (n : Word) (st : State) : (advance k n st).b = st.b := by cases k <;> rfl
@[simp] theorem advance_dp (k : Stack) (n : Word) (st : State) : (advance k n st).dp = st.dp := by cases k <;> rfl
@[simp] theorem advance_cc (k : Stack) (n : Word) (st : State) : (advance k n st).cc = st.cc := by cases k <;> rfl
@[simp] theorem advance_x (k : Stack) (n : Word) (st : State) : (advance k n st).x = st.x := by cases k <;> rfl
@[simp] theorem advance_y (k : Stack) (n : Word) (st : State) : (advance k n st).y = st.y := by cases k <;> rfl
@[simp] theorem advance_pc (k : Stack) (n : Word) (st : State) : (advance k n st).pc = st.pc := by cases k <;> rfl

@[simp] theorem setReg16_d_a (v : Word) (st : State) : (setReg16 .d v st).a = hiByte v := rfl
@[simp] theorem setReg16_d_b (v : Word) (st : State) : (setReg16 .d v st).b = loByte v := rfl
@[simp] theorem setReg16_d_x (v : Word) (st : State) : (setReg16 .d v st).x = st.x := rfl
@[simp] theorem setReg16_d_y (v : Word) (st : State) : (setReg16 .d v st).y = st.y := rfl
@[simp] theorem setReg16_d_u (v : Word) (st : State) : (setReg16 .d v st).u = st.u := rfl
@[simp] theorem setReg16_d_s (v : Word) (st : State) : (setReg16 .d v st).s = st.s := rfl
@[simp] theorem setReg16_d_pc (v : Word) (st : State) : (setReg16 .d v st).pc = st.pc := rfl
@[simp] theorem setReg16_x_a (v : Word) (st : State) : (setReg16 .x v st).a = st.a := rfl
@[simp] theorem setReg16_x_b (v : Word) (st : State) : (setReg16 .x v st).b = st.b := rfl
@[simp] theorem setReg16_x_x (v : Word) (st : State) : (setReg16 .x v st).x = v := rfl
@[simp] theorem setReg16_x_y (v : Word) (st : State) : (setReg16 .x v st).y = st.y := rfl
@[simp] theorem setReg16_x_u (v : Word) (st : State) : (setReg16 .x v st).u = st.u := rfl
@[simp] theorem setReg16_x_s (v : Word) (st : State) : (setReg16 .x v st).s = st.s := rfl
@[simp] theorem setReg16_x_pc (v : Word) (st : State) : (setReg16 .x v st).pc = st.pc := rfl
@[simp] theorem setReg16_y_a (v : Word) (st : State) : (setReg16 .y v st).a = st.a := rfl
@[simp] theorem setReg16_y_b (v : Word) (st : State) : (setReg16 .y v st).b = st.b := rfl
@[simp] theorem setReg16_y_x (v : Word) (st : State) : (setReg16 .y v st).x = st.x := rfl
@[simp] theorem setReg16_y_y (v : Word) (st : State) : (setReg16 .y v st).y = v := rfl
@[simp] theorem setReg16_y_u (v : Word) (st : State) : (setReg16 .y v st).u = st.u := rfl
@[simp] theorem setReg16_y_s (v : Word) (st : State) : (setReg16 .y v st).s = st.s := rfl
@[simp] theorem setReg16_y_pc (v : Word) (st : State) : (setReg16 .y v st).pc = st.pc := rfl
@[simp] theorem setReg16_u_a (v : Word) (st : State) : (setReg16 .u v st).a = st.a := rfl
@[simp] theorem setReg16_u_b (v : Word) (st : State) : (setReg16 .u v st).b = st.b := rfl
@[simp] theorem setReg16_u_x (v : Word) (st : State) : (setReg16 .u v st).x = st.x := rfl
@[simp] theorem setReg16_u_y (v : Word) (st : State) : (setReg16 .u v st).y = st.y := rfl
@[simp] theorem setReg16_u_u (v : Word) (st : State) : (setReg16 .u v st).u = v := rfl
@[simp] theorem setReg16_u_s (v : Word) (st : State) : (setReg16 .u v st).s = st.s := rfl
@[simp] theorem setReg16_u_pc (v : Word) (st : State) : (setReg16 .u v st).pc = st.pc := rfl
@[simp] theorem setReg16_s_a (v : Word) (st : State) : (setReg16 .s v st).a = st.a := rfl
@[simp] theorem setReg16_s_b (v : Word) (st : State) : (setReg16 .s v st).b = st.b := rfl
@[simp] theorem setReg16_s_x (v : Word) (st : State) : (setReg16 .s v st).x = st.x := rfl
@[simp] theorem setReg16_s_y (v : Word) (st : State) : (setReg16 .s v st).y = st.y := rfl
@[simp] theorem setReg16_s_u (v : Word) (st : State) : (setReg16 .s v st).u = st.u := rfl
@[simp] theorem setReg16_s_s (v : Word) (st : State) : (setReg16 .s v st).s = v := rfl
@[simp] theorem setReg16_s_pc (v : Word) (st : State) : (setReg16 .s v st).pc = st.pc := rfl
@[simp] theorem setReg16_pc_a (v : Word) (st : State) : (setReg16 .pc v st).a = st.a := rfl
@[simp] theorem setReg16_pc_b (v : Word) (st : State) : (setReg16 .pc v st).b = st.b := rfl
@[simp] theorem setReg16_pc_x (v : Word) (st : State) : (setReg16 .pc v st).x = st.x := rfl
@[simp] theorem setReg16_pc_y (v : Word) (st : State) : (setReg16 .pc v st).y = st.y := rfl
@[simp] theorem setReg16_pc_u (v : Word) (st : State) : (setReg16 .pc v st).u = st.u := rfl
@[simp] theorem setReg16_pc_s (v : Word) (st : State) : (setReg16 .pc v st).s = st.s := rfl
@[simp] theorem setReg16_pc_pc (v : Word) (st : State) : (setReg16 .pc v st).pc = v := rfl
@[simp] theorem setReg8_a_a (v : Byte) (st : State) : (setReg8 .a v st).a = v := rfl
@[simp] theorem setReg8_a_b (v : Byte) (st : State) : (setReg8 .a v st).b = st.b := rfl
@[simp] theorem setReg8_a_cc (v : Byte) (st : State) : (setReg8 .a v st).cc = st.cc := rfl
@[simp] theorem setReg8_a_dp (v : Byte) (st : State) : (setReg8 .a v st).dp = st.dp := rfl
@[simp] theorem setReg8_b_a (v : Byte) (st : State) : (setReg8 .b v st).a = st.a := rfl
@[simp] theorem setReg8_b_b (v : Byte) (st : State) : (setReg8 .b v st).b = v := rfl
@[simp] theorem setReg8_b_cc (v : Byte) (st : State) : (setReg8 .b v st).cc = st.cc := rfl
@[simp] theorem setReg8_b_dp (v : Byte) (st : State) : (setReg8 .b v st).dp = st.dp := rfl
@[simp] theorem setReg8_cc_a (v : Byte) (st : State) : (setReg8 .cc v st).a = st.a := rfl
@[simp] theorem setReg8_cc_b (v : Byte) (st : State) : (setReg8 .cc v st).b = st.b := rfl
@[simp] theorem setReg8_cc_cc (v : Byte) (st : State) : (setReg8 .cc v st).cc = v := rfl
@[simp] theorem setReg8_cc_dp (v : Byte) (st : State) : (setReg8 .cc v st).dp = st.dp := rfl
@[simp] theorem setReg8_dp_a (v : Byte) (st : State) : (setReg8 .dp v st).a = st.a := rfl
@[simp] theorem setReg8_dp_b (v : Byte) (st : State) : (setReg8 .dp v st).b = st.b := rfl
@[simp] theorem setReg8_dp_cc (v : Byte) (st : State) : (setReg8 .dp v st).cc = st.cc := rfl
@[simp] theorem setReg8_dp_dp (v : Byte) (st : State) : (setReg8 .dp v st).dp = v := rfl

@[simp] theorem reg16_x (st : State) : reg16 .x st = st.x := rfl
@[simp] theorem reg16_y (st : State) : reg16 .y st = st.y := rfl
@[simp] theorem reg16_u (st : State) : reg16 .u st = st.u := rfl
@[simp] theorem reg16_s (st : State) : reg16 .s st = st.s := rfl
@[simp] theorem reg16_pc (st : State) : reg16 .pc st = st.pc := rfl
@[simp] theorem reg16_d (st : State) : reg16 .d st = joinBytes st.a st.b := rfl
@[simp] theorem reg8_a (st : State) : reg8 .a st = st.a := rfl
@[simp] theorem reg8_b (st : State) : reg8 .b st = st.b := rfl
@[simp] theorem reg8_cc (st : State) : reg8 .cc st = st.cc := rfl
@[simp] theorem reg8_dp (st : State) : reg8 .dp st = st.dp := rfl

/-! ## Bytes of a word -/

@[simp] theorem hiByte_joinBytes (h l : Byte) : hiByte (joinBytes h l) = h := by
  ext i hi
  simp only [hiByte, joinBytes, BitVec.getElem_extractLsb']
  rw [BitVec.getLsbD_append]
  simp [show ¬ (8 + i < 8) by omega, hi]

@[simp] theorem loByte_joinBytes (h l : Byte) : loByte (joinBytes h l) = l := by
  ext i hi
  simp only [loByte, joinBytes, BitVec.getElem_extractLsb']
  rw [BitVec.getLsbD_append]
  simp [hi]

@[simp] theorem joinBytes_hi_lo (w : Word) : joinBytes (hiByte w) (loByte w) = w := by
  apply BitVec.eq_of_getLsbD_eq
  intro i hi
  unfold joinBytes hiByte loByte
  rw [BitVec.getLsbD_append]
  by_cases h : i < 8
  · simp [h]
  · simp [h, show i - 8 < 8 by omega, show 8 + (i - 8) = i by omega]

/-! ## Registers -/

/-- What is written to a 16-bit register is read back from it (10_state R21, R22). -/
@[simp] theorem reg16_setReg16_same (r : Reg16) (v : Word) (st : State) : reg16 r (setReg16 r v st) = v := by
  cases r <;> simp

/-- A 16-bit register is its own: writing one leaves another as it was (10_state R20). -/
theorem reg16_setReg16_other {r q : Reg16} (h : q ≠ r) (v : Word) (st : State) :
    reg16 q (setReg16 r v st) = reg16 q st := by
  cases r <;> cases q <;> simp at h ⊢

/-- What is written to an 8-bit register is read back from it (10_state R21). -/
@[simp] theorem reg8_setReg8_same (r : Reg8) (v : Byte) (st : State) : reg8 r (setReg8 r v st) = v := by
  cases r <;> rfl

/-- Writing an 8-bit register leaves another as it was. -/
theorem reg8_setReg8_other {r q : Reg8} (h : q ≠ r) (v : Byte) (st : State) :
    reg8 q (setReg8 r v st) = reg8 q st := by
  cases r <;> cases q <;> simp at h ⊢

end Sys2Proof.Machine
end

