-- ==== Sys2Proof/Laws/Decode.lean ====
section
/-! SUPPORT. Decoding what the encoder writes, field by field, and what the decoder reads (spec/30_encoding.md R90, R93;
spec/40_effective_address.md R127, R129, R146). -/

namespace Sys2Proof

open Sys2Proof.Machine

/-! ## Fields -/

@[simp] theorem byteAt_cons_zero (b : Byte) (bs : List Byte) : byteAt (b :: bs) 0 = b := rfl
@[simp] theorem byteAt_cons_succ (b : Byte) (bs : List Byte) (n : Nat) :
    byteAt (b :: bs) (n + 1) = byteAt bs n := rfl

/-- A word laid out at byte `n` is read back. -/
theorem wordAt_layout (bs : List Byte) (n : Nat) (w : Word) (h1 : byteAt bs n = hiByte w)
    (h2 : byteAt bs (n + 1) = loByte w) : wordAt bs n = w := by
  rw [wordAt, h1, h2, joinBytes_hi_lo]

/-- A register pair is read back from its post-byte (45_transfer_stack R304). -/
theorem decodePair_encodePair (p : RegPair) : decodePair (encodePair p) = some p := by
  cases p with
  | wide r1 r2 => cases r1 <;> cases r2 <;> decide
  | narrow r1 r2 => cases r1 <;> cases r2 <;> decide

/-- The fields of a complex post-byte (30_encoding R90). -/
theorem complexByte_fields : ∀ (sel : BitVec 2) (i : Bool) (m : BitVec 4),
    (complexByte sel i m).getLsbD 7 = true ∧ (complexByte sel i m).getLsbD 4 = i ∧
    (complexByte sel i m).extractLsb' 5 2 = sel ∧ (complexByte sel i m).extractLsb' 0 4 = m := by
  decide

/-- The fields of a simple post-byte (40_effective_address R128). -/
theorem simpleByte_fields : ∀ (sel : BitVec 2) (o : BitVec 5),
    (((0#1 ++ sel : BitVec 3) ++ o) : BitVec 8).getLsbD 7 = false ∧
    (((0#1 ++ sel : BitVec 3) ++ o) : BitVec 8).extractLsb' 5 2 = sel ∧
    (((0#1 ++ sel : BitVec 3) ++ o) : BitVec 8).extractLsb' 0 5 = o := by
  decide

theorem indexRegOf_selOf (r : IndexReg) : indexRegOf (selOf r) = r := by cases r <;> decide

/-- A complex post-byte is read as its sub-mode. -/
theorem decodeIndexed_complexByte (sel : BitVec 2) (i : Bool) (m : BitVec 4) (o1 o2 : Byte) :
    decodeIndexed (complexByte sel i m) o1 o2 =
      (decodeSubMode m (indexRegOf sel) o1 o2).map fun e => (.complex e.1 i, e.2) := by
  obtain ⟨h7, h4, h5, h0⟩ := complexByte_fields sel i m
  rw [decodeIndexed, h7, h4, h5, h0]
  simp only [if_true]
  cases decodeSubMode m (indexRegOf sel) o1 o2 <;> rfl

/-- An indexed operand is read back from its bytes, whatever follows them. -/
theorem decodeIndexed_encodeIndexed (p : Indexed) (rest : List Byte) :
    decodeIndexed (byteAt (encodeIndexed p ++ rest) 0) (byteAt (encodeIndexed p ++ rest) 1)
      (byteAt (encodeIndexed p ++ rest) 2) = some (p, (encodeIndexed p).length - 1) := by
  cases p with
  | simple r o =>
    obtain ⟨h7, h5, h0⟩ := simpleByte_fields (selOf r) o
    simp only [encodeIndexed, List.cons_append, byteAt_cons_zero, decodeIndexed, h7, h5, h0, indexRegOf_selOf]
    rfl
  | complex m i =>
    cases m <;>
      simp [encodeIndexed, encodeComplex, decodeIndexed_complexByte, decodeSubMode, indexRegOf_selOf]

/-- The same inside an instruction. -/
theorem decodeIdx_encodeIndexed (f : Indexed → Instr) (front : List Byte) (p : Indexed) (rest : List Byte) :
    decodeIdx f front.length (front ++ (encodeIndexed p ++ rest)) =
      .ok (f p, front.length + (encodeIndexed p).length) := by
  have hb : ∀ k, byteAt (front ++ (encodeIndexed p ++ rest)) (front.length + k) = byteAt (encodeIndexed p ++ rest) k := by
    intro k; simp [byteAt, List.getD_eq_getElem?_getD, List.getElem?_append_right]
  have h0 := hb 0
  rw [Nat.add_zero] at h0
  rw [decodeIdx, h0, hb 1, hb 2, decodeIndexed_encodeIndexed]
  have : 1 ≤ (encodeIndexed p).length := by
    cases p with
    | simple r o => simp [encodeIndexed]
    | complex m i => cases m <;> simp [encodeIndexed, encodeComplex]
  simp only [Except.ok.injEq, Prod.mk.injEq, true_and]
  omega

/-! ## Dispatch -/

/-- Bytes before the end of the front part of a list. -/
theorem byteAt_append (front l : List Byte) {n : Nat} (h : n < front.length) :
    byteAt (front ++ l) n = byteAt front n := by
  simp [byteAt, List.getD_eq_getElem?_getD, List.getElem?_append_left h]

/-- An opcode byte of page 1 whose slot is filled. -/
theorem decode_page1 {op : Byte} {f : Form} (bs : List Byte) (h2 : op ≠ 0x10#8) (h3 : op ≠ 0x11#8)
    (hf : page1Slot op = some f) : decode (op :: bs) = decodeForm 1 (op :: bs) f := by
  simp [decode, Config.page2Byte, Config.page3Byte, h2, h3, hf]

/-- A filled slot of page 2. -/
theorem decode_page2 {op : Byte} {f : Form} (bs : List Byte) (hf : slotOf op page2 = some f) :
    decode (0x10#8 :: op :: bs) = decodeForm 2 (0x10#8 :: op :: bs) f := by
  simp [decode, Config.page2Byte, hf]

/-- A filled slot of page 3. -/
theorem decode_page3 {op : Byte} {f : Form} (bs : List Byte) (hf : slotOf op page3 = some f) :
    decode (0x11#8 :: op :: bs) = decodeForm 2 (0x11#8 :: op :: bs) f := by
  simp [decode, Config.page2Byte, Config.page3Byte, hf]

/-! ## Sizes -/

/-- An indexed operand takes one to three bytes. -/
theorem encodeIndexed_length (p : Indexed) : 1 ≤ (encodeIndexed p).length ∧ (encodeIndexed p).length ≤ 3 := by
  cases p with
  | simple r o => simp [encodeIndexed]
  | complex m i => cases m <;> simp [encodeIndexed, encodeComplex]

theorem encodeMem_length (d i e : Byte) (m : MemMode) :
    2 ≤ (encodeMem d i e m).length ∧ (encodeMem d i e m).length ≤ 4 := by
  cases m with
  | dir dd => simp [encodeMem]
  | ext a => simp [encodeMem]
  | idx p => have := encodeIndexed_length p; simp only [encodeMem, List.length_cons]; omega

theorem encodeSrc8_length (i d x e : Byte) (m : Src8) :
    2 ≤ (encodeSrc8 i d x e m).length ∧ (encodeSrc8 i d x e m).length ≤ 4 := by
  cases m with
  | imm ii => simp [encodeSrc8]
  | mem m => exact encodeMem_length d x e m

theorem encodeSrc16_length (i d x e : Byte) (m : Src16) :
    2 ≤ (encodeSrc16 i d x e m).length ∧ (encodeSrc16 i d x e m).length ≤ 4 := by
  cases m with
  | imm w => simp [encodeSrc16]
  | mem m => exact encodeMem_length d x e m

end Sys2Proof
end

