-- ==== Sys2Proof/Laws/Memory.lean ====
section
/-! SUPPORT. Memory: a byte read after a write, and the canonical form every memory operation keeps
(spec/20_memory.md R52 to R56, R60). -/

namespace Sys2Proof.Machine

/-! ## Reading what was written -/

theorem memGet_filter (m : Memory) (a b : Nat) :
    memGet (m.filter fun c => decide (c.1 ≠ a)) b = if b = a then Config.unlistedByte else memGet m b := by
  induction m with
  | nil => simp [memGet]
  | cons c rest ih =>
    obtain ⟨k, w⟩ := c
    by_cases hk : k = a
    · subst hk
      simp only [List.filter_cons, ne_eq, not_true_eq_false, decide_false, Bool.false_eq_true, if_false]
      rw [ih]
      by_cases hb : b = k
      · simp [hb]
      · simp [hb, memGet, Ne.symm hb]
    · simp only [List.filter_cons, ne_eq, hk, not_false_eq_true, decide_true, if_true, memGet]
      rw [ih]
      by_cases hb : k = b
      · subst hb; simp [hk]
      · simp [hb]

theorem memGet_memInsert_other (m : Memory) {a b : Nat} (v : Byte) (h : b ≠ a) :
    memGet (memInsert m a v) b = memGet m b := by
  induction m with
  | nil => simp [memInsert, memGet, Ne.symm h]
  | cons c rest ih =>
    obtain ⟨k, w⟩ := c
    unfold memInsert
    split
    · simp [memGet, Ne.symm h]
    · simp [memGet, ih]

theorem memGet_memInsert_same (m : Memory) (a : Nat) (v : Byte) (h : ∀ c ∈ m, c.1 ≠ a) :
    memGet (memInsert m a v) a = v := by
  induction m with
  | nil => simp [memInsert, memGet]
  | cons c rest ih =>
    obtain ⟨k, w⟩ := c
    unfold memInsert
    split
    · simp [memGet]
    · have hk : k ≠ a := h (k, w) (by simp)
      simp only [memGet, hk, if_false]
      exact ih fun c hc => h c (by simp [hc])

/-- A write leaves every other byte as it was. -/
theorem memGet_memSet_other (m : Memory) {a b : Nat} (v : Byte) (h : b ≠ a) :
    memGet (memSet m a v) b = memGet m b := by
  simp only [memSet]
  split
  · rw [memGet_filter]; simp [h]
  · rw [memGet_memInsert_other _ _ h, memGet_filter]; simp [h]

/-- A byte reads as it was last written. -/
theorem memGet_memSet_same (m : Memory) (a : Nat) (v : Byte) : memGet (memSet m a v) a = v := by
  simp only [memSet]
  split
  · next h => rw [memGet_filter]; simp [h]
  · exact memGet_memInsert_same _ _ _ (by simp)

/-- The byte at an address of a memory after a write. -/
theorem memGet_memSet (m : Memory) (a b : Nat) (v : Byte) :
    memGet (memSet m a v) b = if b = a then v else memGet m b := by
  by_cases h : b = a
  · subst h; simp [memGet_memSet_same]
  · simp [h, memGet_memSet_other _ _ h]

/-! ## The canonical form -/

/-- The canonical form, entry by entry and pair by pair. -/
theorem wf_iff (m : Memory) :
    m.wf = true ↔
      (∀ c ∈ m, c.1 < Config.memBytes ∧ c.2 ≠ Config.unlistedByte) ∧ m.Pairwise (fun c d => c.1 < d.1) := by
  induction m with
  | nil => simp [Memory.wf]
  | cons c rest ih =>
    obtain ⟨a, v⟩ := c
    cases rest with
    | nil => simp [Memory.wf]
    | cons d tl =>
      obtain ⟨b, w⟩ := d
      simp only [Memory.wf, Bool.and_eq_true, decide_eq_true_eq] at ih ⊢
      rw [ih]
      constructor
      · rintro ⟨⟨⟨h1, h2⟩, h3⟩, h4, h5⟩
        refine ⟨fun c hc => ?_, ?_⟩
        · rcases List.mem_cons.1 hc with rfl | hc
          · exact ⟨h1, h2⟩
          · exact h4 c hc
        · refine List.pairwise_cons.2 ⟨fun c hc => ?_, h5⟩
          rcases List.mem_cons.1 hc with rfl | hc
          · exact h3
          · exact Nat.lt_trans h3 (List.rel_of_pairwise_cons h5 hc)
      · rintro ⟨h1, h2⟩
        have h2' := List.pairwise_cons.1 h2
        exact ⟨⟨h1 (a, v) (by simp), h2'.1 (b, w) (by simp)⟩,
          fun c hc => h1 c (List.mem_cons_of_mem _ hc), h2'.2⟩

theorem mem_memInsert {m : Memory} {a : Nat} {v : Byte} {c : Host.Cell} (h : c ∈ memInsert m a v) :
    c = (a, v) ∨ c ∈ m := by
  induction m with
  | nil => simpa [memInsert] using h
  | cons d rest ih =>
    obtain ⟨k, w⟩ := d
    unfold memInsert at h
    split at h
    · simpa using h
    · rcases List.mem_cons.1 h with h | h
      · simp [h]
      · rcases ih h with h | h <;> simp [h]

theorem memInsert_rising {m : Memory} {a : Nat} {v : Byte} (hm : m.Pairwise fun c d => c.1 < d.1)
    (ha : ∀ c ∈ m, c.1 ≠ a) : (memInsert m a v).Pairwise fun c d => c.1 < d.1 := by
  induction m with
  | nil => simp [memInsert]
  | cons d rest ih =>
    obtain ⟨k, w⟩ := d
    have h := List.pairwise_cons.1 hm
    unfold memInsert
    split
    · next hlt =>
      refine List.pairwise_cons.2 ⟨fun c hc => ?_, hm⟩
      rcases List.mem_cons.1 hc with rfl | hc
      · exact hlt
      · exact Nat.lt_trans hlt (h.1 c hc)
    · next hlt =>
      have hk : k ≠ a := ha (k, w) (by simp)
      refine List.pairwise_cons.2 ⟨fun c hc => ?_, ih h.2 fun c hc => ha c (by simp [hc])⟩
      rcases mem_memInsert hc with rfl | hc
      · exact Nat.lt_of_le_of_ne (Nat.le_of_not_lt hlt) hk
      · exact h.1 c hc

/-- A write keeps the canonical form. -/
theorem memSet_wf {m : Memory} {a : Nat} (v : Byte) (hm : m.wf = true) (ha : a < Config.memBytes) :
    (memSet m a v).wf = true := by
  obtain ⟨h1, h2⟩ := (wf_iff m).1 hm
  have h2' : (m.filter fun c => decide (c.1 ≠ a)).Pairwise (fun c d => c.1 < d.1) := h2.filter _
  simp only [memSet]
  split
  · exact (wf_iff _).2 ⟨fun c hc => h1 c ((List.mem_filter.1 hc).1), h2'⟩
  · next hv =>
    refine (wf_iff _).2 ⟨fun c hc => ?_, memInsert_rising h2' (by simp)⟩
    rcases mem_memInsert hc with rfl | hc
    · exact ⟨ha, hv⟩
    · exact h1 c ((List.mem_filter.1 hc).1)

/-- Every address is in the address space. -/
theorem toNat_lt_memBytes (a : Addr) : a.toNat < Config.memBytes := a.isLt

/-- Storing a byte keeps the canonical form, by the loader path or at run time. -/
theorem storeByte_wf (a : Addr) (v : Byte) {st : State} (h : st.mem.wf = true) :
    (storeByte a v st).mem.wf = true := memSet_wf v h (toNat_lt_memBytes a)

/-! ## Bytes of the machine's memory -/

/-- A byte of memory after a store (20_memory R54, R60). -/
theorem readByte_storeByte (a b : Addr) (v : Byte) (st : State) :
    readByte (storeByte a v st) b = if b = a then v else readByte st b := by
  simp only [readByte, storeByte, memGet_memSet, BitVec.toNat_inj]

/-- Memory is all a read depends on. -/
theorem readByte_congr {st t : State} (h : t.mem = st.mem) (a : Addr) : readByte t a = readByte st a := by
  simp [readByte, h]

theorem readWord_congr {st t : State} (h : t.mem = st.mem) (a : Addr) : readWord t a = readWord st a := by
  simp [readWord, readByte, h]

end Sys2Proof.Machine
end

