-- ==== Sys2Proof/Laws/Ops.lean ====
section
/-! SUPPORT. What each shared operation can do, said once: sequencing, faults, writes, and what no operation of an
instruction can touch (spec/20_memory.md R54, R56; spec/60_exceptions.md R400, R402). -/

namespace Sys2Proof.Machine

open Sys2Proof.Safety

/-! ## Sequencing and faults -/

@[simp] theorem andThen_next (t : State) (k : State → Result) : andThen (.next t) k = k t := rfl
@[simp] theorem andThen_fault (f : Fault) (k : State → Result) : andThen (.fault f) k = .fault f := rfl
@[simp] theorem andThen_refused (q : Refusal) (k : State → Result) : andThen (.refused q) k = .refused q := rfl

theorem andThen_assoc (r : Result) (k l : State → Result) :
    andThen (andThen r k) l = andThen r fun t => andThen (k t) l := by cases r <;> rfl

/-- A sequence goes on exactly when both parts do. -/
theorem andThen_eq_next {r : Result} {k : State → Result} {u : State} :
    andThen r k = .next u ↔ ∃ t, r = .next t ∧ k t = .next u := by cases r <;> simp [andThen]

@[simp] theorem faultLeft_faultOf (t : State) (info : FaultInfo) : faultLeft (faultOf t info) = t := by
  cases info <;> rfl

@[simp] theorem faultInfo_faultOf (t : State) (info : FaultInfo) : faultInfo (faultOf t info) = info := by
  cases info <;> rfl

/-- A fault is its info and the state it left. -/
theorem faultOf_faultLeft_faultInfo (f : Fault) : faultOf (faultLeft f) (faultInfo f) = f := by cases f <;> rfl

/-- `raise` never goes on. -/
theorem raise_ne_next (info : FaultInfo) (st t : State) : raise info st ≠ .next t := by simp [raise]

theorem romFault_eq (a : Addr) (st : State) : romFault a st = raise (.romWrite a) st := rfl

/-! ## Writes -/

/-- A byte write below 0x8000 stores it. -/
theorem writeByte_ram {a : Addr} (h : a.toNat < 0x8000) (v : Byte) (st : State) :
    writeByte a v st = .next (storeByte a v st) := by
  simp [writeByte, isRom, Config.romBase, Nat.not_le.2 h]

/-- A byte write from 0x8000 on faults and stores nothing. -/
theorem writeByte_rom {a : Addr} (h : 0x8000 ≤ a.toNat) (v : Byte) (st : State) :
    writeByte a v st = raise (.romWrite a) st := by
  simp [writeByte, isRom, Config.romBase, h]

/-- A word write whose two bytes are in RAM stores both. -/
theorem writeWord_ram {a : Addr} (h : a.toNat < 0x7FFF) (v : Word) (st : State) :
    writeWord a v st = .next (storeByte (a + 1) (loByte v) (storeByte a (hiByte v) st)) := by
  have h1 : (a + 1).toNat < 0x8000 := by
    rw [BitVec.toNat_add, show (1 : Addr).toNat = 1 from rfl]; omega
  rw [writeWord, writeByte_ram (show a.toNat < 0x8000 by omega), andThen_next, writeByte_ram h1]

/-- A word write at 0x7FFF stores its high byte and then faults. -/
theorem writeWord_edge {a : Addr} (h : a.toNat = 0x7FFF) (v : Word) (st : State) :
    writeWord a v st = raise (.romWrite 0x8000#16) (storeByte a (hiByte v) st) := by
  obtain rfl : a = 0x7FFF#16 := BitVec.eq_of_toNat_eq h
  simp [writeWord, writeByte_ram (show (0x7FFF#16 : Addr).toNat < 0x8000 by decide),
    writeByte_rom (show 0x8000 ≤ (0x8000#16 : Addr).toNat by decide)]

/-- A word write from 0x8000 on faults at its first byte. -/
theorem writeWord_rom {a : Addr} (h : 0x8000 ≤ a.toNat) (v : Word) (st : State) :
    writeWord a v st = raise (.romWrite a) st := by
  simp [writeWord, writeByte_rom h, raise]

/-! ## What no operation of an instruction touches -/

/-- The launch parameters, the count and the controller's flags are as before, ROM reads as before, memory keeps its
canonical form and the touched set its form. -/
structure Kept (st t : State) : Prop where
  launch : t.launch = st.launch
  instrCount : t.instrCount = st.instrCount
  pauseFlag : t.pauseFlag = st.pauseFlag
  stopFlag : t.stopFlag = st.stopFlag
  skipBreakpoint : t.skipBreakpoint = st.skipBreakpoint
  resetDue : t.resetDue = st.resetDue
  runState : t.runState = st.runState
  report : t.report = st.report
  rom : ∀ a : Addr, 0x8000 ≤ a.toNat → readByte t a = readByte st a
  wf : st.mem.wf = true → t.mem.wf = true
  touched : ramAddrs st.stackTouched = true → ramAddrs t.stackTouched = true

/-- A result that goes on in a state with `P`, or raises a fault in one. -/
def Ends (P : State → Prop) : Result → Prop
  | .next t => P t
  | .fault f => ∃ info t, f = faultOf (stopWith (.fault info) t) info ∧ P t
  | .refused _ => False

theorem Kept.refl (st : State) : Kept st st :=
  ⟨rfl, rfl, rfl, rfl, rfl, rfl, rfl, rfl, fun _ _ => rfl, id, id⟩

theorem Kept.trans {st t u : State} (h : Kept st t) (k : Kept t u) : Kept st u :=
  ⟨k.launch.trans h.launch, k.instrCount.trans h.instrCount, k.pauseFlag.trans h.pauseFlag,
   k.stopFlag.trans h.stopFlag, k.skipBreakpoint.trans h.skipBreakpoint, k.resetDue.trans h.resetDue,
   k.runState.trans h.runState,
   k.report.trans h.report, fun a ha => (k.rom a ha).trans (h.rom a ha), fun w => k.wf (h.wf w),
   fun w => k.touched (h.touched w)⟩

/-- Writing registers only. -/
theorem Kept.regs {st t : State}
    (h : t = { st with a := t.a, b := t.b, dp := t.dp, cc := t.cc, x := t.x, y := t.y, u := t.u, s := t.s, pc := t.pc }) :
    Kept st t := by
  rw [h]; exact ⟨rfl, rfl, rfl, rfl, rfl, rfl, rfl, rfl, fun _ _ => rfl, id, id⟩

theorem Kept.setReg16 (r : Reg16) (v : Word) (st : State) : Kept st (setReg16 r v st) := by
  apply Kept.regs; cases r <;> rfl

theorem Kept.setReg8 (r : Reg8) (v : Byte) (st : State) : Kept st (setReg8 r v st) := by
  apply Kept.regs; cases r <;> rfl

theorem Kept.setCC (v : Byte) (st : State) : Kept st (setCC v st) := Kept.regs rfl

/-- A store below 0x8000. -/
theorem Kept.storeByte {a : Addr} (h : a.toNat < 0x8000) (v : Byte) (st : State) : Kept st (storeByte a v st) := by
  refine ⟨rfl, rfl, rfl, rfl, rfl, rfl, rfl, rfl, fun b hb => ?_, fun w => storeByte_wf a v w, id⟩
  rw [readByte_storeByte, if_neg (by rintro rfl; omega)]

theorem mem_insertAddr {a x : Addr} {l : List Addr} : x ∈ insertAddr a l ↔ x = a ∨ x ∈ l := by
  induction l with
  | nil => simp [insertAddr]
  | cons b rest ih =>
    unfold insertAddr
    split
    · simp
    · split
      · next h => subst h; simp
      · simp only [List.mem_cons, ih]; exact or_left_comm

/-- The form of the touched set, entry by entry and pair by pair. -/
theorem ramAddrs_iff (l : List Addr) :
    ramAddrs l = true ↔ (∀ a ∈ l, a.toNat < 0x8000) ∧ l.Pairwise (fun a b => a.toNat < b.toNat) := by
  induction l with
  | nil => simp [ramAddrs]
  | cons a rest ih =>
    cases rest with
    | nil =>
      simp only [ramAddrs, Bool.and_true, decide_eq_true_eq]
      simp [Config.romBase]
    | cons b tl =>
      rw [ramAddrs, Bool.and_eq_true, Bool.and_eq_true, decide_eq_true_eq, ih]
      simp only [decide_eq_true_eq, Config.romBase]
      constructor
      · rintro ⟨⟨h1, h2⟩, h3, h4⟩
        refine ⟨fun c hc => ?_, List.pairwise_cons.2 ⟨fun c hc => ?_, h4⟩⟩
        · rcases List.mem_cons.1 hc with rfl | hc
          · exact h1
          · exact h3 c hc
        · rcases List.mem_cons.1 hc with rfl | hc
          · exact h2
          · exact Nat.lt_trans h2 (List.rel_of_pairwise_cons h4 hc)
      · rintro ⟨h1, h2⟩
        have h := List.pairwise_cons.1 h2
        exact ⟨⟨h1 a (by simp), h.1 b (by simp)⟩, fun c hc => h1 c (List.mem_cons_of_mem _ hc), h.2⟩

theorem ramAddrs_insertAddr {a : Addr} {l : List Addr} (ha : a.toNat < 0x8000) (hl : ramAddrs l = true) :
    ramAddrs (insertAddr a l) = true := by
  rw [ramAddrs_iff] at hl ⊢
  obtain ⟨h1, h2⟩ := hl
  refine ⟨fun x hx => ?_, ?_⟩
  · rcases mem_insertAddr.1 hx with rfl | hx
    · exact ha
    · exact h1 x hx
  · clear h1
    induction l with
    | nil => simp [insertAddr]
    | cons b rest ih =>
      have h := List.pairwise_cons.1 h2
      unfold insertAddr
      split
      · next hlt =>
        refine List.pairwise_cons.2 ⟨fun c hc => ?_, h2⟩
        rcases List.mem_cons.1 hc with rfl | hc
        · exact hlt
        · exact Nat.lt_trans hlt (h.1 c hc)
      · split
        · exact h2
        · next hlt hne =>
          refine List.pairwise_cons.2 ⟨fun c hc => ?_, ih h.2⟩
          rcases mem_insertAddr.1 hc with rfl | hc
          · have : ¬ c.toNat = b.toNat := fun e => hne (BitVec.eq_of_toNat_eq e)
            omega
          · exact h.1 c hc

theorem Kept.touch {a : Addr} (h : a.toNat < 0x8000) (st : State) : Kept st (touch a st) :=
  ⟨rfl, rfl, rfl, rfl, rfl, rfl, rfl, rfl, fun _ _ => rfl, id, ramAddrs_insertAddr h⟩

/-! ## The same for results -/

theorem Ends.next {P : State → Prop} {t : State} (h : P t) : Ends P (.next t) := h

theorem Ends.raise {P : State → Prop} {t : State} (info : FaultInfo) (h : P t) : Ends P (raise info t) :=
  ⟨info, t, rfl, h⟩

theorem Ends.mono {P Q : State → Prop} {r : Result} (h : Ends P r) (k : ∀ t, P t → Q t) : Ends Q r := by
  cases r with
  | next t => exact k t h
  | fault f => obtain ⟨info, t, hf, ht⟩ := h; exact ⟨info, t, hf, k t ht⟩
  | refused q => exact h

theorem Ends.andThen {P Q : State → Prop} {r : Result} {k : State → Result} (h : Ends P r)
    (hP : ∀ t, P t → Q t) (hk : ∀ t, P t → Ends Q (k t)) : Ends Q (andThen r k) := by
  cases r with
  | next t => exact hk t h
  | fault f => obtain ⟨info, t, hf, ht⟩ := h; exact ⟨info, t, hf, hP t ht⟩
  | refused q => exact h

/-- A run-time byte write stores in RAM or faults with nothing changed. -/
theorem writeByte_kept (a : Addr) (v : Byte) (st : State) : Ends (Kept st) (writeByte a v st) := by
  by_cases h : a.toNat < 0x8000
  · rw [writeByte_ram h]; exact Kept.storeByte h v st
  · rw [writeByte_rom (by omega)]; exact Ends.raise _ (Kept.refl st)

theorem writeWord_kept (a : Addr) (v : Word) (st : State) : Ends (Kept st) (writeWord a v st) :=
  (writeByte_kept a (hiByte v) st).andThen (fun _ h => h) fun t h =>
    (writeByte_kept (a + 1) (loByte v) t).mono fun _ k => h.trans k

theorem pushByte_kept (k : Stack) (v : Byte) (st : State) : Ends (Kept st) (pushByte k v st) := by
  unfold pushByte
  have h0 := Kept.setReg16 (stackReg k) (reg16 (stackReg k) st - 1) st
  by_cases h : (reg16 (stackReg k) st - 1).toNat < 0x8000
  · simp only [writeByte_ram h, andThen_next]
    exact (h0.trans (Kept.storeByte h v _)).trans (Kept.touch h _)
  · simp only [writeByte_rom (Nat.le_of_not_lt h), Machine.raise, andThen_fault]
    exact Ends.raise _ h0

theorem pushBytes_kept (k : Stack) (vs : List Byte) (st : State) : Ends (Kept st) (pushBytes k vs st) := by
  induction vs generalizing st with
  | nil => exact Kept.refl st
  | cons v vs ih =>
    exact (pushByte_kept k v st).andThen (fun _ h => h) fun t h => (ih t).mono fun _ q => h.trans q

theorem pullReg8_kept (k : Stack) (r : Reg8) (st : State) : Kept st (pullReg8 k r st) :=
  (Kept.setReg16 _ _ st).trans (Kept.setReg8 _ _ _)

theorem pullReg16_kept (k : Stack) (r : Reg16) (st : State) : Kept st (pullReg16 k r st) :=
  (Kept.setReg16 _ _ st).trans (Kept.setReg16 _ _ _)

theorem pullIf_kept (c : Bool) {f : State → State} (h : ∀ t, Kept t (f t)) (st : State) :
    Kept st (pullIf c f st) := by
  cases c
  · exact Kept.refl st
  · exact h st

end Sys2Proof.Machine
end

