-- ==== Sys2Proof/Laws/Operands.lean ====
section
/-! SUPPORT. What computing an address or fetching an operand leaves as it was: everything but the four index registers
(spec/40_effective_address.md R120, R144). -/

namespace Sys2Proof.Machine

/-- An address computation writes at most X, Y, U and S. -/
theorem indexedAddr_regs (p : Indexed) (st : State) :
    (indexedAddr p st).2 = { st with
      x := (indexedAddr p st).2.x, y := (indexedAddr p st).2.y
      u := (indexedAddr p st).2.u, s := (indexedAddr p st).2.s } := by
  cases p with
  | simple r o => rfl
  | complex m i =>
    cases i <;> cases m <;> first | rfl | (rename_i r; cases r <;> rfl)

/-- An address computation writes at most X, Y, U and S. -/
theorem ea_regs (m : MemMode) (st : State) :
    (ea m st).2 = { st with
      x := (ea m st).2.x, y := (ea m st).2.y, u := (ea m st).2.u, s := (ea m st).2.s } := by
  cases m with
  | dir dd => rfl
  | ext a => rfl
  | idx p => exact indexedAddr_regs p st

/-- An operand fetch writes at most X, Y, U and S. -/
theorem operand8_regs (m : Src8) (st : State) :
    (operand8 m st).2 = { st with
      x := (operand8 m st).2.x, y := (operand8 m st).2.y
      u := (operand8 m st).2.u, s := (operand8 m st).2.s } := by
  cases m with
  | imm ii => rfl
  | mem m => exact ea_regs m st

/-- An operand fetch writes at most X, Y, U and S. -/
theorem operand16_regs (m : Src16) (st : State) :
    (operand16 m st).2 = { st with
      x := (operand16 m st).2.x, y := (operand16 m st).2.y
      u := (operand16 m st).2.u, s := (operand16 m st).2.s } := by
  cases m with
  | imm w => rfl
  | mem m => exact ea_regs m st

/-! ## Field by field -/

@[simp] theorem indexedAddr_a (p : Indexed) (st : State) : (indexedAddr p st).2.a = st.a := by
  rw [indexedAddr_regs]
@[simp] theorem indexedAddr_b (p : Indexed) (st : State) : (indexedAddr p st).2.b = st.b := by
  rw [indexedAddr_regs]
@[simp] theorem indexedAddr_dp (p : Indexed) (st : State) : (indexedAddr p st).2.dp = st.dp := by
  rw [indexedAddr_regs]
@[simp] theorem indexedAddr_cc (p : Indexed) (st : State) : (indexedAddr p st).2.cc = st.cc := by
  rw [indexedAddr_regs]
@[simp] theorem indexedAddr_pc (p : Indexed) (st : State) : (indexedAddr p st).2.pc = st.pc := by
  rw [indexedAddr_regs]
@[simp] theorem indexedAddr_mem (p : Indexed) (st : State) : (indexedAddr p st).2.mem = st.mem := by
  rw [indexedAddr_regs]
@[simp] theorem indexedAddr_runState (p : Indexed) (st : State) : (indexedAddr p st).2.runState = st.runState := by
  rw [indexedAddr_regs]
@[simp] theorem indexedAddr_instrCount (p : Indexed) (st : State) : (indexedAddr p st).2.instrCount = st.instrCount := by
  rw [indexedAddr_regs]
@[simp] theorem indexedAddr_pauseFlag (p : Indexed) (st : State) : (indexedAddr p st).2.pauseFlag = st.pauseFlag := by
  rw [indexedAddr_regs]
@[simp] theorem indexedAddr_stopFlag (p : Indexed) (st : State) : (indexedAddr p st).2.stopFlag = st.stopFlag := by
  rw [indexedAddr_regs]
@[simp] theorem indexedAddr_skipBreakpoint (p : Indexed) (st : State) : (indexedAddr p st).2.skipBreakpoint = st.skipBreakpoint := by
  rw [indexedAddr_regs]
@[simp] theorem indexedAddr_resetDue (p : Indexed) (st : State) : (indexedAddr p st).2.resetDue = st.resetDue := by
  rw [indexedAddr_regs]
@[simp] theorem indexedAddr_report (p : Indexed) (st : State) : (indexedAddr p st).2.report = st.report := by
  rw [indexedAddr_regs]
@[simp] theorem indexedAddr_stackTouched (p : Indexed) (st : State) : (indexedAddr p st).2.stackTouched = st.stackTouched := by
  rw [indexedAddr_regs]
@[simp] theorem indexedAddr_launch (p : Indexed) (st : State) : (indexedAddr p st).2.launch = st.launch := by
  rw [indexedAddr_regs]

@[simp] theorem ea_a (m : MemMode) (st : State) : (ea m st).2.a = st.a := by
  rw [ea_regs]
@[simp] theorem ea_b (m : MemMode) (st : State) : (ea m st).2.b = st.b := by
  rw [ea_regs]
@[simp] theorem ea_dp (m : MemMode) (st : State) : (ea m st).2.dp = st.dp := by
  rw [ea_regs]
@[simp] theorem ea_cc (m : MemMode) (st : State) : (ea m st).2.cc = st.cc := by
  rw [ea_regs]
@[simp] theorem ea_pc (m : MemMode) (st : State) : (ea m st).2.pc = st.pc := by
  rw [ea_regs]
@[simp] theorem ea_mem (m : MemMode) (st : State) : (ea m st).2.mem = st.mem := by
  rw [ea_regs]
@[simp] theorem ea_runState (m : MemMode) (st : State) : (ea m st).2.runState = st.runState := by
  rw [ea_regs]
@[simp] theorem ea_instrCount (m : MemMode) (st : State) : (ea m st).2.instrCount = st.instrCount := by
  rw [ea_regs]
@[simp] theorem ea_pauseFlag (m : MemMode) (st : State) : (ea m st).2.pauseFlag = st.pauseFlag := by
  rw [ea_regs]
@[simp] theorem ea_stopFlag (m : MemMode) (st : State) : (ea m st).2.stopFlag = st.stopFlag := by
  rw [ea_regs]
@[simp] theorem ea_skipBreakpoint (m : MemMode) (st : State) : (ea m st).2.skipBreakpoint = st.skipBreakpoint := by
  rw [ea_regs]
@[simp] theorem ea_resetDue (m : MemMode) (st : State) : (ea m st).2.resetDue = st.resetDue := by
  rw [ea_regs]
@[simp] theorem ea_report (m : MemMode) (st : State) : (ea m st).2.report = st.report := by
  rw [ea_regs]
@[simp] theorem ea_stackTouched (m : MemMode) (st : State) : (ea m st).2.stackTouched = st.stackTouched := by
  rw [ea_regs]
@[simp] theorem ea_launch (m : MemMode) (st : State) : (ea m st).2.launch = st.launch := by
  rw [ea_regs]

@[simp] theorem operand8_a (m : Src8) (st : State) : (operand8 m st).2.a = st.a := by
  rw [operand8_regs]
@[simp] theorem operand8_b (m : Src8) (st : State) : (operand8 m st).2.b = st.b := by
  rw [operand8_regs]
@[simp] theorem operand8_dp (m : Src8) (st : State) : (operand8 m st).2.dp = st.dp := by
  rw [operand8_regs]
@[simp] theorem operand8_cc (m : Src8) (st : State) : (operand8 m st).2.cc = st.cc := by
  rw [operand8_regs]
@[simp] theorem operand8_pc (m : Src8) (st : State) : (operand8 m st).2.pc = st.pc := by
  rw [operand8_regs]
@[simp] theorem operand8_mem (m : Src8) (st : State) : (operand8 m st).2.mem = st.mem := by
  rw [operand8_regs]
@[simp] theorem operand8_runState (m : Src8) (st : State) : (operand8 m st).2.runState = st.runState := by
  rw [operand8_regs]
@[simp] theorem operand8_instrCount (m : Src8) (st : State) : (operand8 m st).2.instrCount = st.instrCount := by
  rw [operand8_regs]
@[simp] theorem operand8_pauseFlag (m : Src8) (st : State) : (operand8 m st).2.pauseFlag = st.pauseFlag := by
  rw [operand8_regs]
@[simp] theorem operand8_stopFlag (m : Src8) (st : State) : (operand8 m st).2.stopFlag = st.stopFlag := by
  rw [operand8_regs]
@[simp] theorem operand8_skipBreakpoint (m : Src8) (st : State) : (operand8 m st).2.skipBreakpoint = st.skipBreakpoint := by
  rw [operand8_regs]
@[simp] theorem operand8_resetDue (m : Src8) (st : State) : (operand8 m st).2.resetDue = st.resetDue := by
  rw [operand8_regs]
@[simp] theorem operand8_report (m : Src8) (st : State) : (operand8 m st).2.report = st.report := by
  rw [operand8_regs]
@[simp] theorem operand8_stackTouched (m : Src8) (st : State) : (operand8 m st).2.stackTouched = st.stackTouched := by
  rw [operand8_regs]
@[simp] theorem operand8_launch (m : Src8) (st : State) : (operand8 m st).2.launch = st.launch := by
  rw [operand8_regs]

@[simp] theorem operand16_a (m : Src16) (st : State) : (operand16 m st).2.a = st.a := by
  rw [operand16_regs]
@[simp] theorem operand16_b (m : Src16) (st : State) : (operand16 m st).2.b = st.b := by
  rw [operand16_regs]
@[simp] theorem operand16_dp (m : Src16) (st : State) : (operand16 m st).2.dp = st.dp := by
  rw [operand16_regs]
@[simp] theorem operand16_cc (m : Src16) (st : State) : (operand16 m st).2.cc = st.cc := by
  rw [operand16_regs]
@[simp] theorem operand16_pc (m : Src16) (st : State) : (operand16 m st).2.pc = st.pc := by
  rw [operand16_regs]
@[simp] theorem operand16_mem (m : Src16) (st : State) : (operand16 m st).2.mem = st.mem := by
  rw [operand16_regs]
@[simp] theorem operand16_runState (m : Src16) (st : State) : (operand16 m st).2.runState = st.runState := by
  rw [operand16_regs]
@[simp] theorem operand16_instrCount (m : Src16) (st : State) : (operand16 m st).2.instrCount = st.instrCount := by
  rw [operand16_regs]
@[simp] theorem operand16_pauseFlag (m : Src16) (st : State) : (operand16 m st).2.pauseFlag = st.pauseFlag := by
  rw [operand16_regs]
@[simp] theorem operand16_stopFlag (m : Src16) (st : State) : (operand16 m st).2.stopFlag = st.stopFlag := by
  rw [operand16_regs]
@[simp] theorem operand16_skipBreakpoint (m : Src16) (st : State) : (operand16 m st).2.skipBreakpoint = st.skipBreakpoint := by
  rw [operand16_regs]
@[simp] theorem operand16_resetDue (m : Src16) (st : State) : (operand16 m st).2.resetDue = st.resetDue := by
  rw [operand16_regs]
@[simp] theorem operand16_report (m : Src16) (st : State) : (operand16 m st).2.report = st.report := by
  rw [operand16_regs]
@[simp] theorem operand16_stackTouched (m : Src16) (st : State) : (operand16 m st).2.stackTouched = st.stackTouched := by
  rw [operand16_regs]
@[simp] theorem operand16_launch (m : Src16) (st : State) : (operand16 m st).2.launch = st.launch := by
  rw [operand16_regs]

@[simp] theorem reg8_ea (r : Reg8) (m : MemMode) (st : State) : reg8 r (ea m st).2 = reg8 r st := by
  cases r <;> simp [reg8]

@[simp] theorem reg8_operand8 (r : Reg8) (m : Src8) (st : State) : reg8 r (operand8 m st).2 = reg8 r st := by
  cases r <;> simp [reg8]

@[simp] theorem readByte_ea (m : MemMode) (st : State) (a : Addr) :
    readByte (ea m st).2 a = readByte st a := readByte_congr (ea_mem m st) a

@[simp] theorem readWord_ea (m : MemMode) (st : State) (a : Addr) :
    readWord (ea m st).2 a = readWord st a := readWord_congr (ea_mem m st) a

theorem indexedAddr_kept (p : Indexed) (st : State) : Kept st (indexedAddr p st).2 := by
  apply Kept.regs; rw [indexedAddr_regs]

theorem ea_kept (m : MemMode) (st : State) : Kept st (ea m st).2 := by
  apply Kept.regs; rw [ea_regs]

theorem operand8_kept (m : Src8) (st : State) : Kept st (operand8 m st).2 := by
  apply Kept.regs; rw [operand8_regs]

theorem operand16_kept (m : Src16) (st : State) : Kept st (operand16 m st).2 := by
  apply Kept.regs; rw [operand16_regs]

end Sys2Proof.Machine
end

