-- ==== Sys2Proof/Laws/Stack.lean ====
section
/-! SUPPORT. Everything a push and a pull can do, in the words of `Pushed`, `PushFaults` and `Pulled`
(spec/45_transfer_stack.md R300 to R303, R306, R307). -/

namespace Sys2Proof.Machine

open Sys2Proof.Safety

/-! ## Pushing bytes -/

theorem pointer_eq (k : Stack) (st : State) : pointer k st = reg16 (stackReg k) st := by cases k <;> rfl

theorem withPointer_eq (k : Stack) (p : Word) (st : State) : withPointer k p st = setReg16 (stackReg k) p st := by
  cases k <;> rfl

@[simp] theorem pointer_withPointer (k : Stack) (p : Word) (st : State) : pointer k (withPointer k p st) = p := by
  cases k <;> rfl

theorem pushBytes_append (k : Stack) (vs ws : List Byte) (st : State) :
    pushBytes k (vs ++ ws) st = andThen (pushBytes k vs st) (pushBytes k ws) := by
  induction vs generalizing st with
  | nil => rfl
  | cons v vs ih =>
    simp only [List.cons_append, pushBytes, andThen_assoc]
    cases pushByte k v st <;> simp [ih]

/-- One byte pushed in RAM. -/
theorem pushByte_ram {k : Stack} {st : State} (h1 : 1 ≤ (pointer k st).toNat) (h2 : (pointer k st).toNat ≤ 0x8000)
    (v : Byte) :
    pushByte k v st = .next (touch (pointer k st - 1)
      (storeByte (pointer k st - 1) v (withPointer k (pointer k st - 1) st))) := by
  have h : (pointer k st - 1).toNat < 0x8000 := by
    rw [BitVec.toNat_sub, show (1 : Word).toNat = 1 from rfl]; omega
  rw [pointer_eq] at h
  simp only [pushByte, writeByte_ram h, andThen_next, pointer_eq, withPointer_eq]

/-- One byte pushed into ROM faults with the pointer at it. -/
theorem pushByte_rom {k : Stack} {st : State} (h : (pointer k st).toNat = 0 ∨ 0x8000 < (pointer k st).toNat)
    (v : Byte) :
    pushByte k v st = romFault (pointer k st - 1) (withPointer k (pointer k st - 1) st) := by
  have h : 0x8000 ≤ (pointer k st - 1).toNat := by
    rw [BitVec.toNat_sub, show (1 : Word).toNat = 1 from rfl]; have := (pointer k st).isLt; omega
  rw [pointer_eq] at h
  simp only [pushByte, writeByte_rom h, pointer_eq, withPointer_eq]
  rfl

/-- Where a push leaves the pointer. -/
theorem pushed_pointer {k : Stack} {bytes : List Byte} {st t : State} (h : Pushed k bytes st t) :
    pointer k t = pointer k st - BitVec.ofNat 16 bytes.length := by
  rw [h.1]; cases k <;> rfl

theorem pushed_pointer_toNat {k : Stack} {bytes : List Byte} {st t : State} (h : Pushed k bytes st t)
    (hn : bytes.length ≤ (pointer k st).toNat) :
    (pointer k t).toNat = (pointer k st).toNat - bytes.length := by
  have := (pointer k st).isLt
  rw [pushed_pointer h, BitVec.toNat_sub, BitVec.toNat_ofNat]; omega

/-- A push that fits in RAM. -/
theorem pushBytes_fits {k : Stack} {vs : List Byte} {st : State} (h : PushFits k vs.length st) :
    ∃ t, pushBytes k vs st = .next t ∧ Pushed k vs.reverse st t := by
  induction vs generalizing st with
  | nil =>
    refine ⟨st, rfl, ?_, by simp, fun _ _ => rfl, fun a => ?_⟩
    · cases k <;> simp [withPointer, pointer]
    · simp only [iff_self_or]; omega
  | cons v vs ih =>
    simp only [PushFits, List.length_cons, Nat.add_eq_zero_iff, Nat.succ_ne_self, and_false, false_or] at h
    obtain ⟨h1, h2⟩ := h
    have hlt := (pointer k st).isLt
    have hp : (pointer k st - 1).toNat = (pointer k st).toNat - 1 := by
      rw [BitVec.toNat_sub, show (1 : Word).toNat = 1 from rfl]; omega
    generalize hst1 : touch (pointer k st - 1)
      (storeByte (pointer k st - 1) v (withPointer k (pointer k st - 1) st)) = st1
    have hptr : pointer k st1 = pointer k st - 1 := by subst hst1; cases k <;> rfl
    obtain ⟨t, ht, hP⟩ := ih (st := st1) (.inr ⟨by rw [hptr]; omega, by rw [hptr]; omega⟩)
    have hrd : ∀ a, readByte st1 a = if a = pointer k st - 1 then v else readByte st a := by
      subst hst1; intro a
      rw [readByte_congr (touch_mem _ _), readByte_storeByte, readByte_congr (st := st) (by cases k <;> rfl)]
    have htc : st1.stackTouched = insertAddr (pointer k st - 1) st.stackTouched := by
      subst hst1; cases k <;> rfl
    have hpt := pushed_pointer_toNat hP (by rw [hptr, List.length_reverse]; omega)
    have hpe := pushed_pointer hP
    rw [hptr, List.length_reverse] at hpt hpe
    have hpe' : pointer k t = pointer k st - BitVec.ofNat 16 (vs.length + 1) := by
      apply BitVec.eq_of_toNat_eq
      rw [hpt, hp, BitVec.toNat_sub, BitVec.toNat_ofNat]; omega
    refine ⟨t, ?_, ?_, ?_, ?_, ?_⟩
    · rw [pushBytes, pushByte_ram (by omega) h2, andThen_next, hst1, ht]
    · rw [List.length_reverse, List.length_cons, ← hpe']
      have h0 := hP.1
      rw [List.length_reverse, hptr, ← hpe] at h0
      rw [h0]
      subst hst1
      cases k <;> rfl
    · intro n hn
      simp only [List.length_reverse, List.length_cons] at hn
      simp only [List.reverse_cons]
      by_cases hlast : n < vs.length
      · rw [hP.2.1 n (by simpa using hlast)]
        simp only [List.getD_eq_getElem?_getD, List.getElem?_append_left (show n < vs.reverse.length by simpa using hlast)]
      · obtain rfl : n = vs.length := by omega
        have ha : pointer k t + BitVec.ofNat 16 vs.length = pointer k st - 1 := by
          apply BitVec.eq_of_toNat_eq
          rw [BitVec.toNat_add, hpt, hp, BitVec.toNat_ofNat]; omega
        rw [ha, hP.2.2.1 _ (.inr (Nat.le_of_eq (congrArg BitVec.toNat hptr))), hrd, if_pos rfl]
        simp
    · intro a ha
      rw [hP.2.2.1 a (by rw [hptr]; omega), hrd, if_neg]
      rintro rfl
      omega
    · intro a
      rw [hP.2.2.2 a, htc, mem_insertAddr, hptr, or_assoc, or_left_comm]
      refine or_congr_right ?_
      constructor
      · rintro (rfl | h) <;> omega
      · intro h
        by_cases e : a.toNat = (pointer k st).toNat - 1
        · exact .inl (BitVec.eq_of_toNat_eq (by omega))
        · right; omega

/-- A push that does not fit in RAM. -/
theorem pushBytes_faults {k : Stack} {vs : List Byte} {st : State} (h : ¬ PushFits k vs.length st) :
    PushFaults k vs.reverse st (pushBytes k vs st) := by
  have hlt := (pointer k st).isLt
  simp only [PushFits, not_or, not_and, Nat.not_le] at h
  obtain ⟨h0, h1⟩ := h
  unfold PushFaults
  split
  · next hr =>
    cases vs with
    | nil => simp at h0
    | cons v vs => rw [pushBytes, pushByte_rom hr]; rfl
  · next hr =>
    have hP : (pointer k st).toNat < vs.length := by omega
    obtain ⟨t, ht, hpush⟩ := pushBytes_fits (k := k) (vs := vs.take (pointer k st).toNat) (st := st)
      (.inr ⟨by rw [List.length_take]; omega, by omega⟩)
    have hz := pushed_pointer_toNat hpush (by rw [List.length_reverse, List.length_take]; omega)
    rw [List.length_reverse, List.length_take, Nat.min_eq_left (by omega), Nat.sub_self] at hz
    obtain ⟨w, ws, hw⟩ := List.exists_cons_of_ne_nil (l := vs.drop (pointer k st).toNat)
      (by rw [Ne, List.drop_eq_nil_iff]; omega)
    refine ⟨t, ?_, ?_⟩
    · conv => lhs; rw [← List.take_append_drop (pointer k st).toNat vs]
      rw [pushBytes_append, ht, andThen_next, hw, pushBytes, pushByte_rom (.inl hz)]
      have : pointer k t = 0 := BitVec.eq_of_toNat_eq hz
      rw [this]; rfl
    · rwa [List.length_reverse, ← List.reverse_take]

/-- What a masked push leaves in memory is what it pushes, the last byte pushed lowest. -/
theorem maskBytes_reverse (k : Stack) (mm : Byte) (st : State) : (maskBytes k mm st).reverse = layout k mm st := by
  simp only [maskBytes, layout, List.reverse_append, List.append_assoc]
  have hw : ∀ v, (wordBytes v).reverse = wordLayout v := fun _ => rfl
  cases k <;>
    simp only [apply_ite List.reverse, hw, List.reverse_nil, List.reverse_cons, List.nil_append, otherReg,
      reg16_u, reg16_s]

/-! ## Pulling registers -/

/-- A step of a pull, whatever its mask bit. -/
theorem pullIf_pullReg8 (c : Bool) (k : Stack) (r : Reg8) (st : State) :
    pullIf c (pullReg8 k r) st =
      setReg8 r (if c then readByte st (pointer k st) else reg8 r st) (advance k (if c then 1 else 0) st) := by
  cases c <;> cases k <;> cases r <;> simp [pullIf, pullReg8, advance, pointer, setReg8, setReg16, stackReg]

/-- A step of a pull, whatever its mask bit. -/
theorem pullIf_pullReg16 (c : Bool) (k : Stack) (r : Reg16) (st : State) :
    pullIf c (pullReg16 k r) st =
      setReg16 r (if c then readWord st (pointer k st) else reg16 r (advance k 0 st))
        (advance k (if c then 2 else 0) st) := by
  cases c <;> cases k <;> cases r <;> simp [pullIf, pullReg16, advance, pointer, setReg16, stackReg]

theorem slot_zero (k : Stack) (mm : Byte) (st : State) : slot k mm 0 st = pointer k st := by
  simp [slot, bytesBelow]

/-- Each register of a pull lies after the ones before it. -/
theorem slot_succ (k : Stack) (mm : Byte) (n : Nat) (st : State) :
    slot k mm (n + 1) st =
      slot k mm n st + (if mm.getLsbD n then (if n < 4 then 1#16 else 2#16) else 0#16) := by
  simp only [slot, bytesBelow, List.range_succ, List.map_append, List.sum_append, List.map_cons, List.map_nil,
    List.sum_cons, List.sum_nil, Nat.add_zero, BitVec.ofNat_add, ← BitVec.add_assoc]
  split
  · split <;> rfl
  · rfl

/-- A pull with any mask. -/
theorem pullMask_pulled (k : Stack) (mm : Byte) (st : State) : Pulled k mm st (pullMask k mm st) := by
  unfold Pulled pullMask
  simp only [pullIf_pullReg8, pullIf_pullReg16]
  have e1 := slot_succ k mm 0 st
  have e2 := slot_succ k mm 1 st
  have e3 := slot_succ k mm 2 st
  have e4 := slot_succ k mm 3 st
  have e5 := slot_succ k mm 4 st
  have e6 := slot_succ k mm 5 st
  have e7 := slot_succ k mm 6 st
  have e8 := slot_succ k mm 7 st
  simp only [Nat.zero_add, Nat.reduceAdd, Nat.reduceLT, if_true, if_false] at e1 e2 e3 e4 e5 e6 e7 e8
  rw [e8, e7, e6, e5, e4, e3, e2, e1, slot_zero]
  cases k <;>
    simp [setReg8, setReg16, advance, pointer, stackReg, otherReg, readByte, readWord]

theorem pullMask_kept (k : Stack) (mm : Byte) (st : State) : Kept st (pullMask k mm st) := by
  apply Kept.regs
  conv => lhs; rw [pullMask_pulled k mm st]
  rw [pullMask_pulled k mm st]

end Sys2Proof.Machine
end

