-- ==== Sys2Proof/Laws/Exec.lean ====
section
/-! SUPPORT. What no instruction can do, by the shapes the meanings are made of: `exec_kept` (spec/10_state.md R35, R44;
spec/60_exceptions.md R400, R402). -/

namespace Sys2Proof.Machine

open Sys2Proof.Safety

/-! ## Shape by shape -/

theorem alu8_kept (r : Reg8) (f : Byte → Byte → Byte → Alu 8) (m : Src8) (st : State) :
    Ends (Kept st) (alu8 r f m st) :=
  ((operand8_kept m st).trans (Kept.setCC _ _)).trans (Kept.setReg8 _ _ _)

theorem test8_kept (r : Reg8) (f : Byte → Byte → Byte → Alu 8) (m : Src8) (st : State) :
    Ends (Kept st) (test8 r f m st) := (operand8_kept m st).trans (Kept.setCC _ _)

theorem cmp16_kept (r : Reg16) (m : Src16) (st : State) : Ends (Kept st) (cmp16 r m st) :=
  (operand16_kept m st).trans (Kept.setCC _ _)

theorem aluD_kept (f : Word → Word → Byte → Alu 16) (m : Src16) (st : State) : Ends (Kept st) (aluD f m st) :=
  ((operand16_kept m st).trans (Kept.setCC _ _)).trans (Kept.setReg16 _ _ _)

theorem unaryMem_kept (f : Byte → Byte → Alu 8) (m : MemMode) (st : State) : Ends (Kept st) (unaryMem f m st) :=
  (writeByte_kept _ _ _).mono fun _ h => ((ea_kept m st).trans (Kept.setCC _ _)).trans h

theorem execClr_kept (m : MemMode) (st : State) : Ends (Kept st) (execClr m st) :=
  (writeByte_kept _ _ _).mono fun _ h => ((ea_kept m st).trans (Kept.setCC _ _)).trans h

theorem execTst_kept (m : MemMode) (st : State) : Ends (Kept st) (execTst m st) :=
  (ea_kept m st).trans (Kept.setCC _ _)

theorem unaryAcc_kept (r : Reg8) (f : Byte → Byte → Alu 8) (st : State) : Ends (Kept st) (unaryAcc r f st) :=
  (Kept.setCC _ st).trans (Kept.setReg8 _ _ _)

theorem tstAcc_kept (r : Reg8) (st : State) : Ends (Kept st) (tstAcc r st) := Kept.setCC _ st

theorem load8_kept (r : Reg8) (m : Src8) (st : State) : Ends (Kept st) (load8 r m st) :=
  ((operand8_kept m st).trans (Kept.setCC _ _)).trans (Kept.setReg8 _ _ _)

theorem load16_kept (r : Reg16) (m : Src16) (st : State) : Ends (Kept st) (load16 r m st) :=
  ((operand16_kept m st).trans (Kept.setCC _ _)).trans (Kept.setReg16 _ _ _)

theorem store8_kept (r : Reg8) (m : MemMode) (st : State) : Ends (Kept st) (store8 r m st) :=
  (writeByte_kept _ _ _).mono fun _ h => ((ea_kept m st).trans (Kept.setCC _ _)).trans h

theorem store16_kept (r : Reg16) (m : MemMode) (st : State) : Ends (Kept st) (store16 r m st) :=
  (writeWord_kept _ _ _).mono fun _ h => ((ea_kept m st).trans (Kept.setCC _ _)).trans h

theorem leaFlags_kept (r : Reg16) (p : Indexed) (st : State) : Ends (Kept st) (leaFlags r p st) :=
  ((indexedAddr_kept p st).trans (Kept.setCC _ _)).trans (Kept.setReg16 _ _ _)

theorem leaPlain_kept (r : Reg16) (p : Indexed) (st : State) : Ends (Kept st) (leaPlain r p st) :=
  (indexedAddr_kept p st).trans (Kept.setReg16 _ _ _)

theorem branch_kept (k : Cond) (off : Word) (st : State) : Ends (Kept st) (branch k off st) := by
  unfold branch
  split
  · exact Kept.setReg16 _ _ st
  · exact Kept.refl st

theorem pushMask_kept (k : Stack) (mm : Byte) (st : State) : Ends (Kept st) (pushMask k mm st) :=
  pushBytes_kept _ _ _

theorem callTo_kept (t : Addr) (st : State) : Ends (Kept st) (callTo t st) :=
  (pushBytes_kept _ _ _).andThen (fun _ h => h) fun _ h => h.trans (Kept.setReg16 _ _ _)

theorem execJsr_kept (m : MemMode) (st : State) : Ends (Kept st) (execJsr m st) :=
  (callTo_kept _ _).mono fun _ h => (ea_kept m st).trans h

theorem execJmp_kept (m : MemMode) (st : State) : Ends (Kept st) (execJmp m st) :=
  (ea_kept m st).trans (Kept.setReg16 _ _ _)

theorem execRts_kept (st : State) : Ends (Kept st) (execRts st) := pullReg16_kept _ _ _

theorem execTfr_kept (p : RegPair) (st : State) : Ends (Kept st) (execTfr p st) := by
  cases p
  · exact Kept.setReg16 _ _ _
  · exact Kept.setReg8 _ _ _

theorem execExg_kept (p : RegPair) (st : State) : Ends (Kept st) (execExg p st) := by
  cases p
  · exact (Kept.setReg16 _ _ _).trans (Kept.setReg16 _ _ _)
  · exact (Kept.setReg8 _ _ _).trans (Kept.setReg8 _ _ _)

theorem placeholder_kept (which : Placeholder) (n : Word) {act : State → Result} {st : State}
    (h : Ends (Kept st) (act st)) : Ends (Kept st) (placeholder which n act st) := by
  unfold placeholder
  split
  · exact Ends.raise _ (Kept.refl st)
  · exact Kept.refl st
  · exact h

theorem softInterrupt_kept (vector : Addr) (mask : Byte → Byte) (st : State) :
    Ends (Kept st) (softInterrupt vector mask st) :=
  (pushMask_kept _ _ _).andThen (fun _ h => (Kept.setCC _ st).trans h) fun _ h =>
    (((Kept.setCC _ st).trans h).trans (Kept.setCC _ _)).trans (Kept.setReg16 _ _ _)

theorem interruptReturn_kept (st : State) : Kept st (interruptReturn st) := by
  unfold interruptReturn
  simp only
  split
  · exact (pullReg8_kept _ _ st).trans (pullMask_kept _ _ _)
  · exact (pullReg8_kept _ _ st).trans (pullReg16_kept _ _ _)

/-! ## Every instruction -/

/-- Whatever an instruction does, it goes on or faults with the launch parameters, the count, the controller's flags and
every byte of ROM as before, and with memory in its canonical form; it never refuses. -/
theorem exec_kept (i : Instr) (st : State) : Ends (Kept st) (exec i st) := by
  cases i
  case prefixPage2 => exact Ends.raise _ (Kept.refl st)
  case prefixPage3 => exact Ends.raise _ (Kept.refl st)
  case neg => exact unaryMem_kept _ _ _
  case com => exact unaryMem_kept _ _ _
  case lsr => exact unaryMem_kept _ _ _
  case ror => exact unaryMem_kept _ _ _
  case asr => exact unaryMem_kept _ _ _
  case asl => exact unaryMem_kept _ _ _
  case rol => exact unaryMem_kept _ _ _
  case dec => exact unaryMem_kept _ _ _
  case inc => exact unaryMem_kept _ _ _
  case tst => exact execTst_kept _ _
  case jmp => exact execJmp_kept _ _
  case clr => exact execClr_kept _ _
  case nop => exact Kept.refl st
  case sync => exact placeholder_kept _ _ (Ends.raise _ (Kept.refl st))
  case lbra => exact branch_kept .ra _ st
  case lbsr => exact callTo_kept _ _
  case daa => exact (Kept.setCC _ st).trans (Kept.setReg8 _ _ _)
  case orcc => exact Kept.setCC _ st
  case andcc => exact Kept.setCC _ st
  case sex => exact (Kept.setCC _ st).trans (Kept.setReg16 _ _ _)
  case exg => exact execExg_kept _ _
  case tfr => exact execTfr_kept _ _
  case bra => exact branch_kept .ra _ st
  case brn o => exact branch_kept .rn (sext8 o) st
  case bhi => exact branch_kept .hi _ st
  case bls => exact branch_kept .ls _ st
  case bcc => exact branch_kept .cc _ st
  case bcs => exact branch_kept .cs _ st
  case bne => exact branch_kept .ne _ st
  case beq => exact branch_kept .eq _ st
  case bvc => exact branch_kept .vc _ st
  case bvs => exact branch_kept .vs _ st
  case bpl => exact branch_kept .pl _ st
  case bmi => exact branch_kept .mi _ st
  case bge => exact branch_kept .ge _ st
  case blt => exact branch_kept .lt _ st
  case bgt => exact branch_kept .gt _ st
  case ble => exact branch_kept .le _ st
  case leax => exact leaFlags_kept _ _ _
  case leay => exact leaFlags_kept _ _ _
  case leas => exact leaPlain_kept _ _ _
  case leau => exact leaPlain_kept _ _ _
  case pshs => exact pushMask_kept _ _ _
  case puls => exact pullMask_kept _ _ _
  case pshu => exact pushMask_kept _ _ _
  case pulu => exact pullMask_kept _ _ _
  case rts => exact execRts_kept _
  case abx => exact Kept.setReg16 _ _ st
  case rti => exact placeholder_kept .rti 1 (act := fun t => .next (interruptReturn t)) (interruptReturn_kept st)
  case cwai => exact placeholder_kept _ _ (Ends.raise _ (Kept.refl st))
  case mul => exact (Kept.setCC _ st).trans (Kept.setReg16 _ _ _)
  case swi => exact placeholder_kept _ _ (softInterrupt_kept _ _ _)
  case nega => exact unaryAcc_kept .a neg8 st
  case coma => exact unaryAcc_kept .a com8 st
  case lsra => exact unaryAcc_kept .a lsr8 st
  case rora => exact unaryAcc_kept .a ror8 st
  case asra => exact unaryAcc_kept .a asr8 st
  case asla => exact unaryAcc_kept .a asl8 st
  case rola => exact unaryAcc_kept .a rol8 st
  case deca => exact unaryAcc_kept .a dec8 st
  case inca => exact unaryAcc_kept .a inc8 st
  case tsta => exact tstAcc_kept _ _
  case clra => exact unaryAcc_kept .a (fun _ cc => clr8 cc) st
  case negb => exact unaryAcc_kept .b neg8 st
  case comb => exact unaryAcc_kept .b com8 st
  case lsrb => exact unaryAcc_kept .b lsr8 st
  case rorb => exact unaryAcc_kept .b ror8 st
  case asrb => exact unaryAcc_kept .b asr8 st
  case aslb => exact unaryAcc_kept .b asl8 st
  case rolb => exact unaryAcc_kept .b rol8 st
  case decb => exact unaryAcc_kept .b dec8 st
  case incb => exact unaryAcc_kept .b inc8 st
  case tstb => exact tstAcc_kept _ _
  case clrb => exact unaryAcc_kept .b (fun _ cc => clr8 cc) st
  case suba => exact alu8_kept .a (fun a m cc => sub8 a m false cc) _ st
  case cmpa => exact test8_kept .a (fun a m cc => sub8 a m false cc) _ st
  case sbca => exact alu8_kept .a (fun a m cc => sub8 a m (getFlag .c cc) cc) _ st
  case subd => exact aluD_kept _ _ _
  case anda => exact alu8_kept .a (fun a m cc => logic8 (a &&& m) cc) _ st
  case bita => exact test8_kept .a (fun a m cc => logic8 (a &&& m) cc) _ st
  case lda => exact load8_kept _ _ _
  case eora => exact alu8_kept .a (fun a m cc => logic8 (a ^^^ m) cc) _ st
  case adca => exact alu8_kept .a (fun a m cc => add8 a m (getFlag .c cc) cc) _ st
  case ora => exact alu8_kept .a (fun a m cc => logic8 (a ||| m) cc) _ st
  case adda => exact alu8_kept .a (fun a m cc => add8 a m false cc) _ st
  case cmpx => exact cmp16_kept _ _ _
  case bsr => exact callTo_kept _ _
  case ldx => exact load16_kept _ _ _
  case sta => exact store8_kept _ _ _
  case jsr => exact execJsr_kept _ _
  case stx => exact store16_kept _ _ _
  case subb => exact alu8_kept .b (fun a m cc => sub8 a m false cc) _ st
  case cmpb => exact test8_kept .b (fun a m cc => sub8 a m false cc) _ st
  case sbcb => exact alu8_kept .b (fun a m cc => sub8 a m (getFlag .c cc) cc) _ st
  case addd => exact aluD_kept _ _ _
  case andb => exact alu8_kept .b (fun a m cc => logic8 (a &&& m) cc) _ st
  case bitb => exact test8_kept .b (fun a m cc => logic8 (a &&& m) cc) _ st
  case ldb => exact load8_kept _ _ _
  case eorb => exact alu8_kept .b (fun a m cc => logic8 (a ^^^ m) cc) _ st
  case adcb => exact alu8_kept .b (fun a m cc => add8 a m (getFlag .c cc) cc) _ st
  case orb => exact alu8_kept .b (fun a m cc => logic8 (a ||| m) cc) _ st
  case addb => exact alu8_kept .b (fun a m cc => add8 a m false cc) _ st
  case ldd => exact load16_kept _ _ _
  case ldu => exact load16_kept _ _ _
  case stb => exact store8_kept _ _ _
  case std => exact store16_kept _ _ _
  case stu => exact store16_kept _ _ _
  case lbrn o => exact branch_kept .rn o st
  case lbhi => exact branch_kept .hi _ st
  case lbls => exact branch_kept .ls _ st
  case lbcc => exact branch_kept .cc _ st
  case lbcs => exact branch_kept .cs _ st
  case lbne => exact branch_kept .ne _ st
  case lbeq => exact branch_kept .eq _ st
  case lbvc => exact branch_kept .vc _ st
  case lbvs => exact branch_kept .vs _ st
  case lbpl => exact branch_kept .pl _ st
  case lbmi => exact branch_kept .mi _ st
  case lbge => exact branch_kept .ge _ st
  case lblt => exact branch_kept .lt _ st
  case lbgt => exact branch_kept .gt _ st
  case lble => exact branch_kept .le _ st
  case swi2 => exact placeholder_kept _ _ (softInterrupt_kept _ _ _)
  case cmpd => exact cmp16_kept _ _ _
  case cmpy => exact cmp16_kept _ _ _
  case ldy => exact load16_kept _ _ _
  case sty => exact store16_kept _ _ _
  case lds => exact load16_kept _ _ _
  case sts => exact store16_kept _ _ _
  case swi3 => exact placeholder_kept _ _ (softInterrupt_kept _ _ _)
  case cmpu => exact cmp16_kept _ _ _
  case cmps => exact cmp16_kept _ _ _

end Sys2Proof.Machine
end

