-- ==== Sys2Proof/Laws/PerInstr.lean ====
section
/-! SUPPORT. What holds of every instruction as syntax, one lemma per constructor: it is encoded in one to five bytes
(spec/30_encoding.md R80, R102). -/

namespace Sys2Proof.Laws.Size

/-- The encoding of an instruction takes one to five bytes. -/
def Statement (i : Instr) : Prop := 1 ≤ (encode i).length ∧ (encode i).length ≤ 5

theorem fixed {n : Nat} (h1 : Nat.ble 1 n = true) (h5 : Nat.ble n 5 = true) : 1 ≤ n ∧ n ≤ 5 :=
  ⟨Nat.le_of_ble_eq_true h1, Nat.le_of_ble_eq_true h5⟩

theorem plain {n : Nat} (h : 2 ≤ n ∧ n ≤ 4) : 1 ≤ n ∧ n ≤ 5 := by omega

theorem paged {n : Nat} (h : 2 ≤ n ∧ n ≤ 4) : 1 ≤ n + 1 ∧ n + 1 ≤ 5 := by omega

theorem post {n : Nat} (h : 1 ≤ n ∧ n ≤ 3) : 1 ≤ n + 1 ∧ n + 1 ≤ 5 := by omega

theorem prefixPage2 (op : Byte) : Statement (.prefixPage2 op) := fixed rfl rfl

theorem prefixPage3 (op : Byte) : Statement (.prefixPage3 op) := fixed rfl rfl

theorem neg (m : MemMode) : Statement (.neg m) := plain (encodeMem_length 0x00#8 0x60#8 0x70#8 m)

theorem com (m : MemMode) : Statement (.com m) := plain (encodeMem_length 0x03#8 0x63#8 0x73#8 m)

theorem lsr (m : MemMode) : Statement (.lsr m) := plain (encodeMem_length 0x04#8 0x64#8 0x74#8 m)

theorem ror (m : MemMode) : Statement (.ror m) := plain (encodeMem_length 0x06#8 0x66#8 0x76#8 m)

theorem asr (m : MemMode) : Statement (.asr m) := plain (encodeMem_length 0x07#8 0x67#8 0x77#8 m)

theorem asl (m : MemMode) : Statement (.asl m) := plain (encodeMem_length 0x08#8 0x68#8 0x78#8 m)

theorem rol (m : MemMode) : Statement (.rol m) := plain (encodeMem_length 0x09#8 0x69#8 0x79#8 m)

theorem dec (m : MemMode) : Statement (.dec m) := plain (encodeMem_length 0x0A#8 0x6A#8 0x7A#8 m)

theorem inc (m : MemMode) : Statement (.inc m) := plain (encodeMem_length 0x0C#8 0x6C#8 0x7C#8 m)

theorem tst (m : MemMode) : Statement (.tst m) := plain (encodeMem_length 0x0D#8 0x6D#8 0x7D#8 m)

theorem jmp (m : MemMode) : Statement (.jmp m) := plain (encodeMem_length 0x0E#8 0x6E#8 0x7E#8 m)

theorem clr (m : MemMode) : Statement (.clr m) := plain (encodeMem_length 0x0F#8 0x6F#8 0x7F#8 m)

theorem nop : Statement .nop := fixed rfl rfl

theorem sync : Statement .sync := fixed rfl rfl

theorem lbra (o : Word) : Statement (.lbra o) := fixed rfl rfl

theorem lbsr (o : Word) : Statement (.lbsr o) := fixed rfl rfl

theorem daa : Statement .daa := fixed rfl rfl

theorem orcc (ii : Byte) : Statement (.orcc ii) := fixed rfl rfl

theorem andcc (ii : Byte) : Statement (.andcc ii) := fixed rfl rfl

theorem sex : Statement .sex := fixed rfl rfl

theorem exg (p : RegPair) : Statement (.exg p) := fixed rfl rfl

theorem tfr (p : RegPair) : Statement (.tfr p) := fixed rfl rfl

theorem bra (o : Byte) : Statement (.bra o) := fixed rfl rfl

theorem brn (o : Byte) : Statement (.brn o) := fixed rfl rfl

theorem bhi (o : Byte) : Statement (.bhi o) := fixed rfl rfl

theorem bls (o : Byte) : Statement (.bls o) := fixed rfl rfl

theorem bcc (o : Byte) : Statement (.bcc o) := fixed rfl rfl

theorem bcs (o : Byte) : Statement (.bcs o) := fixed rfl rfl

theorem bne (o : Byte) : Statement (.bne o) := fixed rfl rfl

theorem beq (o : Byte) : Statement (.beq o) := fixed rfl rfl

theorem bvc (o : Byte) : Statement (.bvc o) := fixed rfl rfl

theorem bvs (o : Byte) : Statement (.bvs o) := fixed rfl rfl

theorem bpl (o : Byte) : Statement (.bpl o) := fixed rfl rfl

theorem bmi (o : Byte) : Statement (.bmi o) := fixed rfl rfl

theorem bge (o : Byte) : Statement (.bge o) := fixed rfl rfl

theorem blt (o : Byte) : Statement (.blt o) := fixed rfl rfl

theorem bgt (o : Byte) : Statement (.bgt o) := fixed rfl rfl

theorem ble (o : Byte) : Statement (.ble o) := fixed rfl rfl

theorem leax (p : Indexed) : Statement (.leax p) := post (encodeIndexed_length p)

theorem leay (p : Indexed) : Statement (.leay p) := post (encodeIndexed_length p)

theorem leas (p : Indexed) : Statement (.leas p) := post (encodeIndexed_length p)

theorem leau (p : Indexed) : Statement (.leau p) := post (encodeIndexed_length p)

theorem pshs (mm : Byte) : Statement (.pshs mm) := fixed rfl rfl

theorem puls (mm : Byte) : Statement (.puls mm) := fixed rfl rfl

theorem pshu (mm : Byte) : Statement (.pshu mm) := fixed rfl rfl

theorem pulu (mm : Byte) : Statement (.pulu mm) := fixed rfl rfl

theorem rts : Statement .rts := fixed rfl rfl

theorem abx : Statement .abx := fixed rfl rfl

theorem rti : Statement .rti := fixed rfl rfl

theorem cwai (ii : Byte) : Statement (.cwai ii) := fixed rfl rfl

theorem mul : Statement .mul := fixed rfl rfl

theorem swi : Statement .swi := fixed rfl rfl

theorem nega : Statement .nega := fixed rfl rfl

theorem coma : Statement .coma := fixed rfl rfl

theorem lsra : Statement .lsra := fixed rfl rfl

theorem rora : Statement .rora := fixed rfl rfl

theorem asra : Statement .asra := fixed rfl rfl

theorem asla : Statement .asla := fixed rfl rfl

theorem rola : Statement .rola := fixed rfl rfl

theorem deca : Statement .deca := fixed rfl rfl

theorem inca : Statement .inca := fixed rfl rfl

theorem tsta : Statement .tsta := fixed rfl rfl

theorem clra : Statement .clra := fixed rfl rfl

theorem negb : Statement .negb := fixed rfl rfl

theorem comb : Statement .comb := fixed rfl rfl

theorem lsrb : Statement .lsrb := fixed rfl rfl

theorem rorb : Statement .rorb := fixed rfl rfl

theorem asrb : Statement .asrb := fixed rfl rfl

theorem aslb : Statement .aslb := fixed rfl rfl

theorem rolb : Statement .rolb := fixed rfl rfl

theorem decb : Statement .decb := fixed rfl rfl

theorem incb : Statement .incb := fixed rfl rfl

theorem tstb : Statement .tstb := fixed rfl rfl

theorem clrb : Statement .clrb := fixed rfl rfl

theorem suba (m : Src8) : Statement (.suba m) := plain (encodeSrc8_length 0x80#8 0x90#8 0xA0#8 0xB0#8 m)

theorem cmpa (m : Src8) : Statement (.cmpa m) := plain (encodeSrc8_length 0x81#8 0x91#8 0xA1#8 0xB1#8 m)

theorem sbca (m : Src8) : Statement (.sbca m) := plain (encodeSrc8_length 0x82#8 0x92#8 0xA2#8 0xB2#8 m)

theorem subd (m : Src16) : Statement (.subd m) := plain (encodeSrc16_length 0x83#8 0x93#8 0xA3#8 0xB3#8 m)

theorem anda (m : Src8) : Statement (.anda m) := plain (encodeSrc8_length 0x84#8 0x94#8 0xA4#8 0xB4#8 m)

theorem bita (m : Src8) : Statement (.bita m) := plain (encodeSrc8_length 0x85#8 0x95#8 0xA5#8 0xB5#8 m)

theorem lda (m : Src8) : Statement (.lda m) := plain (encodeSrc8_length 0x86#8 0x96#8 0xA6#8 0xB6#8 m)

theorem eora (m : Src8) : Statement (.eora m) := plain (encodeSrc8_length 0x88#8 0x98#8 0xA8#8 0xB8#8 m)

theorem adca (m : Src8) : Statement (.adca m) := plain (encodeSrc8_length 0x89#8 0x99#8 0xA9#8 0xB9#8 m)

theorem ora (m : Src8) : Statement (.ora m) := plain (encodeSrc8_length 0x8A#8 0x9A#8 0xAA#8 0xBA#8 m)

theorem adda (m : Src8) : Statement (.adda m) := plain (encodeSrc8_length 0x8B#8 0x9B#8 0xAB#8 0xBB#8 m)

theorem cmpx (m : Src16) : Statement (.cmpx m) := plain (encodeSrc16_length 0x8C#8 0x9C#8 0xAC#8 0xBC#8 m)

theorem bsr (o : Byte) : Statement (.bsr o) := fixed rfl rfl

theorem ldx (m : Src16) : Statement (.ldx m) := plain (encodeSrc16_length 0x8E#8 0x9E#8 0xAE#8 0xBE#8 m)

theorem sta (m : MemMode) : Statement (.sta m) := plain (encodeMem_length 0x97#8 0xA7#8 0xB7#8 m)

theorem jsr (m : MemMode) : Statement (.jsr m) := plain (encodeMem_length 0x9D#8 0xAD#8 0xBD#8 m)

theorem stx (m : MemMode) : Statement (.stx m) := plain (encodeMem_length 0x9F#8 0xAF#8 0xBF#8 m)

theorem subb (m : Src8) : Statement (.subb m) := plain (encodeSrc8_length 0xC0#8 0xD0#8 0xE0#8 0xF0#8 m)

theorem cmpb (m : Src8) : Statement (.cmpb m) := plain (encodeSrc8_length 0xC1#8 0xD1#8 0xE1#8 0xF1#8 m)

theorem sbcb (m : Src8) : Statement (.sbcb m) := plain (encodeSrc8_length 0xC2#8 0xD2#8 0xE2#8 0xF2#8 m)

theorem addd (m : Src16) : Statement (.addd m) := plain (encodeSrc16_length 0xC3#8 0xD3#8 0xE3#8 0xF3#8 m)

theorem andb (m : Src8) : Statement (.andb m) := plain (encodeSrc8_length 0xC4#8 0xD4#8 0xE4#8 0xF4#8 m)

theorem bitb (m : Src8) : Statement (.bitb m) := plain (encodeSrc8_length 0xC5#8 0xD5#8 0xE5#8 0xF5#8 m)

theorem ldb (m : Src8) : Statement (.ldb m) := plain (encodeSrc8_length 0xC6#8 0xD6#8 0xE6#8 0xF6#8 m)

theorem eorb (m : Src8) : Statement (.eorb m) := plain (encodeSrc8_length 0xC8#8 0xD8#8 0xE8#8 0xF8#8 m)

theorem adcb (m : Src8) : Statement (.adcb m) := plain (encodeSrc8_length 0xC9#8 0xD9#8 0xE9#8 0xF9#8 m)

theorem orb (m : Src8) : Statement (.orb m) := plain (encodeSrc8_length 0xCA#8 0xDA#8 0xEA#8 0xFA#8 m)

theorem addb (m : Src8) : Statement (.addb m) := plain (encodeSrc8_length 0xCB#8 0xDB#8 0xEB#8 0xFB#8 m)

theorem ldd (m : Src16) : Statement (.ldd m) := plain (encodeSrc16_length 0xCC#8 0xDC#8 0xEC#8 0xFC#8 m)

theorem ldu (m : Src16) : Statement (.ldu m) := plain (encodeSrc16_length 0xCE#8 0xDE#8 0xEE#8 0xFE#8 m)

theorem stb (m : MemMode) : Statement (.stb m) := plain (encodeMem_length 0xD7#8 0xE7#8 0xF7#8 m)

theorem std (m : MemMode) : Statement (.std m) := plain (encodeMem_length 0xDD#8 0xED#8 0xFD#8 m)

theorem stu (m : MemMode) : Statement (.stu m) := plain (encodeMem_length 0xDF#8 0xEF#8 0xFF#8 m)

theorem lbrn (o : Word) : Statement (.lbrn o) := fixed rfl rfl

theorem lbhi (o : Word) : Statement (.lbhi o) := fixed rfl rfl

theorem lbls (o : Word) : Statement (.lbls o) := fixed rfl rfl

theorem lbcc (o : Word) : Statement (.lbcc o) := fixed rfl rfl

theorem lbcs (o : Word) : Statement (.lbcs o) := fixed rfl rfl

theorem lbne (o : Word) : Statement (.lbne o) := fixed rfl rfl

theorem lbeq (o : Word) : Statement (.lbeq o) := fixed rfl rfl

theorem lbvc (o : Word) : Statement (.lbvc o) := fixed rfl rfl

theorem lbvs (o : Word) : Statement (.lbvs o) := fixed rfl rfl

theorem lbpl (o : Word) : Statement (.lbpl o) := fixed rfl rfl

theorem lbmi (o : Word) : Statement (.lbmi o) := fixed rfl rfl

theorem lbge (o : Word) : Statement (.lbge o) := fixed rfl rfl

theorem lblt (o : Word) : Statement (.lblt o) := fixed rfl rfl

theorem lbgt (o : Word) : Statement (.lbgt o) := fixed rfl rfl

theorem lble (o : Word) : Statement (.lble o) := fixed rfl rfl

theorem swi2 : Statement .swi2 := fixed rfl rfl

theorem cmpd (m : Src16) : Statement (.cmpd m) := paged (encodeSrc16_length 0x83#8 0x93#8 0xA3#8 0xB3#8 m)

theorem cmpy (m : Src16) : Statement (.cmpy m) := paged (encodeSrc16_length 0x8C#8 0x9C#8 0xAC#8 0xBC#8 m)

theorem ldy (m : Src16) : Statement (.ldy m) := paged (encodeSrc16_length 0x8E#8 0x9E#8 0xAE#8 0xBE#8 m)

theorem sty (m : MemMode) : Statement (.sty m) := paged (encodeMem_length 0x9F#8 0xAF#8 0xBF#8 m)

theorem lds (m : Src16) : Statement (.lds m) := paged (encodeSrc16_length 0xCE#8 0xDE#8 0xEE#8 0xFE#8 m)

theorem sts (m : MemMode) : Statement (.sts m) := paged (encodeMem_length 0xDF#8 0xEF#8 0xFF#8 m)

theorem swi3 : Statement .swi3 := fixed rfl rfl

theorem cmpu (m : Src16) : Statement (.cmpu m) := paged (encodeSrc16_length 0x83#8 0x93#8 0xA3#8 0xB3#8 m)

theorem cmps (m : Src16) : Statement (.cmps m) := paged (encodeSrc16_length 0x8C#8 0x9C#8 0xAC#8 0xBC#8 m)

end Sys2Proof.Laws.Size
end

