-- ==== Sys2Proof/Laws/Step.lean ====
section
/-! SUPPORT. Everything one step can do, said once, and how steps make a run (spec/60_exceptions.md R404, R406, R410,
R413). -/

namespace Sys2Proof.Machine

open Sys2Proof.Safety

/-- In `Stopped` a step changes nothing (60_exceptions R404, R410). -/
theorem step_stopped {st : State} (h : st.runState = .stopped) : step st = reportAgain st := by
  simp [step, stepCall, h]

/-- Outside `Stopped` a step makes the boundary tests first (60_exceptions R406). -/
theorem step_boundary {st : State} (h : st.runState ≠ .stopped) : step st = boundary st := by
  unfold step stepCall
  cases hs : st.runState <;> simp_all

/-- Where no boundary test holds, a step runs the instruction at PC. -/
theorem step_mayRun {st : State} (h : MayRun st) : step st = runInstr st := by
  rw [step_boundary h.1]
  simp [boundary, Nat.not_le.2 h.2.1, Nat.not_lt.2 h.2.2.1, Nat.not_le.2 h.2.2.2]

/-- Outside `Stopped` a step terminates the run, faults at the boundary, or runs an instruction that keeps the controller
and ROM as they are. -/
theorem step_cases {st : State} (h : st.runState ≠ .stopped) :
    (step st = .next (terminate st) ∧ ¬ MayRun st) ∨
    ((∃ info, step st = raise info st) ∧ ¬ MayRun st) ∨
    (MayRun st ∧ ∃ n, Ends (Kept (beginInstr n st)) (step st)) := by
  by_cases hm : MayRun st
  · refine .inr (.inr ⟨hm, ?_⟩)
    rw [step_mayRun hm, runInstr]
    cases decode (fetchBytes st) with
    | ok r => exact ⟨r.2, exec_kept r.1 _⟩
    | error e => exact ⟨_, Ends.raise _ (Kept.refl _)⟩
  · rw [step_boundary h]
    unfold boundary
    by_cases h1 : st.launch.progEnd ≤ st.pc.toNat
    · exact .inl ⟨by rw [if_pos h1], hm⟩
    · by_cases h2 : st.pc.toNat < st.launch.progStart.toNat
      · exact .inr (.inl ⟨⟨_, by rw [if_neg h1, if_pos h2]⟩, hm⟩)
      · by_cases h3 : st.launch.instrCeiling ≤ st.instrCount
        · exact .inr (.inl ⟨⟨_, by rw [if_neg h1, if_neg h2, if_pos h3]⟩, hm⟩)
        · exact absurd ⟨h, Nat.not_le.1 h1, Nat.not_lt.1 h2, Nat.not_le.1 h3⟩ hm

/-- A next state of a step in `Stopped` is the state itself. -/
theorem step_stopped_next {st t : State} (h : st.runState = .stopped) (ht : step st = .next t) : t = st := by
  rw [step_stopped h, reportAgain] at ht
  split at ht <;> cases ht <;> rfl

/-! ## Loads and the start of a run (70_reset_and_hazards R447) -/

/-- Where a load is allowed, it is made and a reset is due. -/
theorem beforeRun_allowed {st : State} (f : State → State) (h : st.runState = .idle ∨ st.runState = .stopped) :
    beforeRun f st = .next { f st with resetDue := true } := by
  rcases h with h | h <;> simp [beforeRun, h]

/-- During a run a load is refused. -/
theorem beforeRun_refused {st : State} (f : State → State) (h : st.runState = .running ∨ st.runState = .paused) :
    beforeRun f st = .refused (.callNotAllowed st.runState) := by
  rcases h with h | h <;> simp [beforeRun, notAllowed, h]

/-- With no reset due a run may begin. -/
@[simp] theorem afterReset_ready {st : State} (k : State → Result) (h : st.resetDue = false) :
    afterReset k st = k st := by simp [afterReset, h]

/-- After a load a run may not begin. -/
@[simp] theorem afterReset_due {st : State} (k : State → Result) (h : st.resetDue = true) :
    afterReset k st = .refused .resetRequired := by simp [afterReset, h]

/-! ## Runs -/

theorem run_zero (st : State) : Host.Core.run core 0 st = .next st := rfl

theorem run_succ_next {st t : State} (n : Nat) (h : step st = .next t) :
    Host.Core.run core (n + 1) st = Host.Core.run core n t := by
  have h' : core.step st = .next t := h
  simp only [Host.Core.run, h']

theorem run_succ_fault {st : State} {f : Fault} (n : Nat) (h : step st = .fault f) :
    Host.Core.run core (n + 1) st = .fault f := by
  have h' : core.step st = .fault f := h
  simp only [Host.Core.run, h']

end Sys2Proof.Machine
end

