-- ==== Sys2Proof/Laws/Words.lean ====
section
/-! SUPPORT. Bytes, words and address sums as numbers (spec/00_scope.md R8; spec/20_memory.md R55, R58). -/

namespace Sys2Proof

open Sys2Proof.Machine

theorem joinBytes_toNat (h l : Byte) : (joinBytes h l).toNat = 256 * h.toNat + l.toNat := by
  unfold joinBytes
  rw [BitVec.toNat_append, ← Nat.shiftLeft_add_eq_or_of_lt l.isLt, Nat.shiftLeft_eq]
  omega

theorem hiByte_toNat (w : Word) : (hiByte w).toNat = w.toNat / 256 := by
  have h := joinBytes_toNat (hiByte w) (loByte w)
  rw [joinBytes_hi_lo] at h
  have := (loByte w).isLt
  omega

theorem loByte_toNat (w : Word) : (loByte w).toNat = w.toNat % 256 := by
  have h := joinBytes_toNat (hiByte w) (loByte w)
  rw [joinBytes_hi_lo] at h
  have := (loByte w).isLt
  omega

/-- A word plus a word, mod 2^16. -/
theorem add_eq_ofNat (a b : Word) : a + b = BitVec.ofNat 16 (a.toNat + b.toNat) := by
  rw [BitVec.ofNat_add, BitVec.ofNat_toNat, BitVec.ofNat_toNat, BitVec.setWidth_eq, BitVec.setWidth_eq]

/-- A word plus a signed byte, mod 2^16. -/
theorem add_sext8 (a : Word) (b : Byte) : a + sext8 b = BitVec.ofInt 16 (a.toNat + b.toInt) := by
  rw [BitVec.ofInt_add, BitVec.ofInt_natCast, BitVec.ofNat_toNat, BitVec.setWidth_eq]; rfl

/-- A word plus a signed 5-bit offset, mod 2^16. -/
theorem add_sext5 (a : Word) (b : BitVec 5) : a + sext5 b = BitVec.ofInt 16 (a.toNat + b.toInt) := by
  rw [BitVec.ofInt_add, BitVec.ofInt_natCast, BitVec.ofNat_toNat, BitVec.setWidth_eq]; rfl

/-- A word minus a word, mod 2^16. -/
theorem sub_eq_ofInt (a b : Word) : a - b = BitVec.ofInt 16 (a.toNat - b.toNat) := by
  have h1 := a.isLt
  have h2 := b.isLt
  apply BitVec.eq_of_toNat_eq
  rw [BitVec.toNat_sub, BitVec.toNat_ofInt]
  omega

/-- A sign-extended byte as a word: its sign, and its bytes. -/
theorem sext8_bytes : ∀ b : Byte, hiByte (sext8 b) = (if 128 ≤ b.toNat then 0xFF#8 else 0x00#8) ∧
    loByte (sext8 b) = b ∧ (sext8 b).msb = decide (128 ≤ b.toNat) ∧
    (sext8 b = 0 ↔ b.toNat = 0) := by decide

end Sys2Proof
end

