-- ==== Sys2Proof/Tests/Slice0.lean ====
section
/-! SUPPORT. Tests and witnesses. Expected results are those of spec/95_test_vectors.md (the vector's number stands in each
comment) or are written out by hand from the encoding tables of spec/30_encoding.md; every witness shows a state and
operands that meet the hypotheses of one statement. -/

namespace Sys2Proof.Tests

open Sys2Proof.Machine Sys2Proof.Safety

/-! ## Helpers -/

/-- The start of the vectors (95_test_vectors, section 0): every register 0, PC 0x8000, PROG_START 0x0000. -/
def blank : State :=
  { resetState { defaultLaunch with progStart := 0x0000#16, resetU := 0x0000#16, resetS := 0x0000#16 } with pc := 0x8000#16 }

/-- The same under `PLACEHOLDER_BEHAVIOUR` = nop. -/
def underNop : State := { blank with launch := { blank.launch with placeholder := .nop } }

/-- The same under `PLACEHOLDER_BEHAVIOUR` = mc6809. -/
def underMc6809 : State := { blank with launch := { blank.launch with placeholder := .mc6809 } }

/-- Something read off a next state. -/
def seen {α : Type} (r : Result) (view : State → α) : Option α :=
  match r with
  | .next t => some (view t)
  | .fault _ => none
  | .refused _ => none

/-- Bytes placed at PC, one step, and something read off the next state; `none` if there is none. -/
def runs {α : Type} (bytes : List Byte) (st : State) (view : State → α) : Option α :=
  seen (step (placeBytes st.pc bytes st)) view

/-- The same for a step that faults: its info and something read off the state it left. -/
def stops {α : Type} (bytes : List Byte) (st : State) (view : State → α) : Option (FaultInfo × α) :=
  match step (placeBytes st.pc bytes st) with
  | .next _ => none
  | .fault f => some (faultInfo f, view (faultLeft f))
  | .refused _ => none

/-- `n` bytes of memory from an address on. -/
def span (t : State) (a : Addr) (n : Nat) : List Byte := (List.range n).map fun k => readByte t (a + BitVec.ofNat 16 k)

/-- The bytes decode to the instruction, all of them and no more. -/
def reads (bytes : List Byte) (i : Instr) : Bool :=
  match decode bytes with
  | .ok (j, n) => decide (j = i) && n == bytes.length
  | .error _ => false

/-- The bytes are no instruction, for this reason. -/
def rejects (bytes : List Byte) (e : DecodeError) : Bool :=
  match decode bytes with
  | .ok _ => false
  | .error d => decide (d = e)

/-! ## Ill-formed terms -/

/-- 0x21 is a filled slot of page 2: 0x10 0x21 is LBRN (30_encoding R99). -/
theorem test_wellFormed_page2 : wellFormed (.prefixPage2 0x21#8) = false ∧ wellFormed (.prefixPage2 0x20#8) = true := by
  decide

/-- 0x3F is a filled slot of page 3: 0x11 0x3F is SWI3 (30_encoding R100). -/
theorem test_wellFormed_page3 : wellFormed (.prefixPage3 0x3F#8) = false ∧ wellFormed (.prefixPage3 0x21#8) = true := by
  decide

/-- The same two terms have encodings that decode to something else. -/
theorem test_ill_formed_encodings :
    reads (encode (.prefixPage2 0x21#8) ++ [0x00#8, 0x00#8]) (.lbrn 0x0000#16) = true ∧
    reads (encode (.prefixPage3 0x3F#8)) .swi3 = true := by decide

/-! ## Decoding: every constructor, from words of 30_encoding R96, R99, R100 -/

theorem test_decode_direct :
    reads [0x00#8, 0x40#8] (.neg (.dir 0x40#8)) = true ∧
    reads [0x06#8, 0x40#8] (.ror (.dir 0x40#8)) = true ∧
    reads [0x09#8, 0x40#8] (.rol (.dir 0x40#8)) = true ∧
    reads [0x0D#8, 0x40#8] (.tst (.dir 0x40#8)) = true ∧
    reads [0x92#8, 0x40#8] (.sbca (.mem (.dir 0x40#8))) = true ∧
    reads [0x96#8, 0x40#8] (.lda (.mem (.dir 0x40#8))) = true ∧
    reads [0x9A#8, 0x40#8] (.ora (.mem (.dir 0x40#8))) = true ∧
    reads [0x97#8, 0x40#8] (.sta (.dir 0x40#8)) = true ∧
    reads [0x9F#8, 0x40#8] (.stx (.dir 0x40#8)) = true ∧
    reads [0xD6#8, 0x40#8] (.ldb (.mem (.dir 0x40#8))) = true ∧
    reads [0xDB#8, 0x40#8] (.addb (.mem (.dir 0x40#8))) = true ∧
    reads [0xDF#8, 0x40#8] (.stu (.dir 0x40#8)) = true := by
  decide

theorem test_decode_indexed :
    reads [0x63#8, 0x3F#8] (.com (.idx (.simple .y 0x1F#5))) = true ∧
    reads [0x67#8, 0x3F#8] (.asr (.idx (.simple .y 0x1F#5))) = true ∧
    reads [0x6A#8, 0x3F#8] (.dec (.idx (.simple .y 0x1F#5))) = true ∧
    reads [0x6E#8, 0x3F#8] (.jmp (.idx (.simple .y 0x1F#5))) = true ∧
    reads [0x30#8, 0x98#8, 0xFE#8] (.leax (.complex (.off8 .x 0xFE#8) true)) = true ∧
    reads [0x31#8, 0x98#8, 0xFE#8] (.leay (.complex (.off8 .x 0xFE#8) true)) = true ∧
    reads [0x32#8, 0x98#8, 0xFE#8] (.leas (.complex (.off8 .x 0xFE#8) true)) = true ∧
    reads [0x33#8, 0x98#8, 0xFE#8] (.leau (.complex (.off8 .x 0xFE#8) true)) = true ∧
    reads [0xE2#8, 0x3F#8] (.sbcb (.mem (.idx (.simple .y 0x1F#5)))) = true ∧
    reads [0xE8#8, 0x3F#8] (.eorb (.mem (.idx (.simple .y 0x1F#5)))) = true ∧
    reads [0xE7#8, 0x3F#8] (.stb (.idx (.simple .y 0x1F#5))) = true := by
  decide

theorem test_decode_extended :
    reads [0x74#8, 0x12#8, 0x34#8] (.lsr (.ext 0x1234#16)) = true ∧
    reads [0x78#8, 0x12#8, 0x34#8] (.asl (.ext 0x1234#16)) = true ∧
    reads [0x7C#8, 0x12#8, 0x34#8] (.inc (.ext 0x1234#16)) = true ∧
    reads [0x7F#8, 0x12#8, 0x34#8] (.clr (.ext 0x1234#16)) = true ∧
    reads [0xB4#8, 0x12#8, 0x34#8] (.anda (.mem (.ext 0x1234#16))) = true ∧
    reads [0xB8#8, 0x12#8, 0x34#8] (.eora (.mem (.ext 0x1234#16))) = true ∧
    reads [0xBB#8, 0x12#8, 0x34#8] (.adda (.mem (.ext 0x1234#16))) = true ∧
    reads [0xBD#8, 0x12#8, 0x34#8] (.jsr (.ext 0x1234#16)) = true ∧
    reads [0xF4#8, 0x12#8, 0x34#8] (.andb (.mem (.ext 0x1234#16))) = true ∧
    reads [0xF9#8, 0x12#8, 0x34#8] (.adcb (.mem (.ext 0x1234#16))) = true ∧
    reads [0xFD#8, 0x12#8, 0x34#8] (.std (.ext 0x1234#16)) = true := by
  decide

theorem test_decode_inherent_1 :
    reads [0x12#8] .nop = true ∧
    reads [0x13#8] .sync = true ∧
    reads [0x19#8] .daa = true ∧
    reads [0x1D#8] .sex = true ∧
    reads [0x39#8] .rts = true ∧
    reads [0x3A#8] .abx = true ∧
    reads [0x3B#8] .rti = true ∧
    reads [0x3D#8] .mul = true ∧
    reads [0x3F#8] .swi = true ∧
    reads [0x40#8] .nega = true ∧
    reads [0x43#8] .coma = true ∧
    reads [0x44#8] .lsra = true := by
  decide

theorem test_decode_inherent_2 :
    reads [0x46#8] .rora = true ∧
    reads [0x47#8] .asra = true ∧
    reads [0x48#8] .asla = true ∧
    reads [0x49#8] .rola = true ∧
    reads [0x4A#8] .deca = true ∧
    reads [0x4C#8] .inca = true ∧
    reads [0x4D#8] .tsta = true ∧
    reads [0x4F#8] .clra = true ∧
    reads [0x50#8] .negb = true ∧
    reads [0x53#8] .comb = true ∧
    reads [0x54#8] .lsrb = true ∧
    reads [0x56#8] .rorb = true := by
  decide

theorem test_decode_inherent_3 :
    reads [0x57#8] .asrb = true ∧
    reads [0x58#8] .aslb = true ∧
    reads [0x59#8] .rolb = true ∧
    reads [0x5A#8] .decb = true ∧
    reads [0x5C#8] .incb = true ∧
    reads [0x5D#8] .tstb = true ∧
    reads [0x5F#8] .clrb = true := by
  decide

theorem test_decode_rel16 :
    reads [0x16#8, 0xFF#8, 0x7E#8] (.lbra 0xFF7E#16) = true ∧
    reads [0x17#8, 0xFF#8, 0x7E#8] (.lbsr 0xFF7E#16) = true := by
  decide

theorem test_decode_imm8 :
    reads [0x1A#8, 0x5A#8] (.orcc 0x5A#8) = true ∧
    reads [0x1C#8, 0x5A#8] (.andcc 0x5A#8) = true ∧
    reads [0x3C#8, 0x5A#8] (.cwai 0x5A#8) = true ∧
    reads [0x80#8, 0x5A#8] (.suba (.imm 0x5A#8)) = true ∧
    reads [0x81#8, 0x5A#8] (.cmpa (.imm 0x5A#8)) = true ∧
    reads [0x85#8, 0x5A#8] (.bita (.imm 0x5A#8)) = true ∧
    reads [0x89#8, 0x5A#8] (.adca (.imm 0x5A#8)) = true ∧
    reads [0xC0#8, 0x5A#8] (.subb (.imm 0x5A#8)) = true ∧
    reads [0xC1#8, 0x5A#8] (.cmpb (.imm 0x5A#8)) = true ∧
    reads [0xC5#8, 0x5A#8] (.bitb (.imm 0x5A#8)) = true ∧
    reads [0xCA#8, 0x5A#8] (.orb (.imm 0x5A#8)) = true := by
  decide

theorem test_decode_pairs :
    reads [0x1E#8, 0x14#8] (.exg (.wide .x .s)) = true ∧
    reads [0x1F#8, 0x14#8] (.tfr (.wide .x .s)) = true := by
  decide

theorem test_decode_short_branches_1 :
    reads [0x20#8, 0x80#8] (.bra 0x80#8) = true ∧
    reads [0x21#8, 0x80#8] (.brn 0x80#8) = true ∧
    reads [0x22#8, 0x80#8] (.bhi 0x80#8) = true ∧
    reads [0x23#8, 0x80#8] (.bls 0x80#8) = true ∧
    reads [0x24#8, 0x80#8] (.bcc 0x80#8) = true ∧
    reads [0x25#8, 0x80#8] (.bcs 0x80#8) = true ∧
    reads [0x26#8, 0x80#8] (.bne 0x80#8) = true ∧
    reads [0x27#8, 0x80#8] (.beq 0x80#8) = true ∧
    reads [0x28#8, 0x80#8] (.bvc 0x80#8) = true ∧
    reads [0x29#8, 0x80#8] (.bvs 0x80#8) = true ∧
    reads [0x2A#8, 0x80#8] (.bpl 0x80#8) = true ∧
    reads [0x2B#8, 0x80#8] (.bmi 0x80#8) = true := by
  decide

theorem test_decode_short_branches_2 :
    reads [0x2C#8, 0x80#8] (.bge 0x80#8) = true ∧
    reads [0x2D#8, 0x80#8] (.blt 0x80#8) = true ∧
    reads [0x2E#8, 0x80#8] (.bgt 0x80#8) = true ∧
    reads [0x2F#8, 0x80#8] (.ble 0x80#8) = true ∧
    reads [0x8D#8, 0x80#8] (.bsr 0x80#8) = true := by
  decide

theorem test_decode_masks :
    reads [0x34#8, 0x86#8] (.pshs 0x86#8) = true ∧
    reads [0x35#8, 0x86#8] (.puls 0x86#8) = true ∧
    reads [0x36#8, 0x86#8] (.pshu 0x86#8) = true ∧
    reads [0x37#8, 0x86#8] (.pulu 0x86#8) = true := by
  decide

theorem test_decode_imm16 :
    reads [0x83#8, 0x12#8, 0x34#8] (.subd (.imm 0x1234#16)) = true ∧
    reads [0x8C#8, 0x12#8, 0x34#8] (.cmpx (.imm 0x1234#16)) = true ∧
    reads [0x8E#8, 0x12#8, 0x34#8] (.ldx (.imm 0x1234#16)) = true ∧
    reads [0xC3#8, 0x12#8, 0x34#8] (.addd (.imm 0x1234#16)) = true ∧
    reads [0xCC#8, 0x12#8, 0x34#8] (.ldd (.imm 0x1234#16)) = true ∧
    reads [0xCE#8, 0x12#8, 0x34#8] (.ldu (.imm 0x1234#16)) = true := by
  decide

theorem test_decode_page2_1 :
    reads [0x10#8, 0x21#8, 0xFF#8, 0x7E#8] (.lbrn 0xFF7E#16) = true ∧
    reads [0x10#8, 0x22#8, 0xFF#8, 0x7E#8] (.lbhi 0xFF7E#16) = true ∧
    reads [0x10#8, 0x23#8, 0xFF#8, 0x7E#8] (.lbls 0xFF7E#16) = true ∧
    reads [0x10#8, 0x24#8, 0xFF#8, 0x7E#8] (.lbcc 0xFF7E#16) = true ∧
    reads [0x10#8, 0x25#8, 0xFF#8, 0x7E#8] (.lbcs 0xFF7E#16) = true ∧
    reads [0x10#8, 0x26#8, 0xFF#8, 0x7E#8] (.lbne 0xFF7E#16) = true ∧
    reads [0x10#8, 0x27#8, 0xFF#8, 0x7E#8] (.lbeq 0xFF7E#16) = true ∧
    reads [0x10#8, 0x28#8, 0xFF#8, 0x7E#8] (.lbvc 0xFF7E#16) = true ∧
    reads [0x10#8, 0x29#8, 0xFF#8, 0x7E#8] (.lbvs 0xFF7E#16) = true ∧
    reads [0x10#8, 0x2A#8, 0xFF#8, 0x7E#8] (.lbpl 0xFF7E#16) = true ∧
    reads [0x10#8, 0x2B#8, 0xFF#8, 0x7E#8] (.lbmi 0xFF7E#16) = true ∧
    reads [0x10#8, 0x2C#8, 0xFF#8, 0x7E#8] (.lbge 0xFF7E#16) = true := by
  decide

theorem test_decode_page2_2 :
    reads [0x10#8, 0x2D#8, 0xFF#8, 0x7E#8] (.lblt 0xFF7E#16) = true ∧
    reads [0x10#8, 0x2E#8, 0xFF#8, 0x7E#8] (.lbgt 0xFF7E#16) = true ∧
    reads [0x10#8, 0x2F#8, 0xFF#8, 0x7E#8] (.lble 0xFF7E#16) = true ∧
    reads [0x10#8, 0x3F#8] .swi2 = true ∧
    reads [0x10#8, 0x83#8, 0x12#8, 0x34#8] (.cmpd (.imm 0x1234#16)) = true ∧
    reads [0x10#8, 0x8C#8, 0x12#8, 0x34#8] (.cmpy (.imm 0x1234#16)) = true ∧
    reads [0x10#8, 0x8E#8, 0x12#8, 0x34#8] (.ldy (.imm 0x1234#16)) = true ∧
    reads [0x10#8, 0x9F#8, 0x40#8] (.sty (.dir 0x40#8)) = true ∧
    reads [0x10#8, 0xCE#8, 0x12#8, 0x34#8] (.lds (.imm 0x1234#16)) = true ∧
    reads [0x10#8, 0xDF#8, 0x40#8] (.sts (.dir 0x40#8)) = true := by
  decide

theorem test_decode_page3 :
    reads [0x11#8, 0x3F#8] .swi3 = true ∧
    reads [0x11#8, 0x83#8, 0x12#8, 0x34#8] (.cmpu (.imm 0x1234#16)) = true ∧
    reads [0x11#8, 0x8C#8, 0x12#8, 0x34#8] (.cmps (.imm 0x1234#16)) = true := by
  decide

/-- The page bytes before an empty slot, a page byte among them (30_encoding R82, R83). -/
theorem test_decode_page_bytes :
    reads [0x10#8, 0x00#8] (.prefixPage2 0x00#8) = true ∧ reads [0x10#8, 0x10#8] (.prefixPage2 0x10#8) = true ∧
    reads [0x11#8, 0x11#8] (.prefixPage3 0x11#8) = true ∧ reads [0x11#8, 0x21#8] (.prefixPage3 0x21#8) = true := by
  decide

/-- The indexed sub-modes, each with its post-byte written out (40_effective_address R127 to R141). -/
theorem test_decode_submodes :
    reads [0xA6#8, 0x10#8] (.lda (.mem (.idx (.simple .x 0x10#5)))) = true ∧
    reads [0xA6#8, 0x80#8] (.lda (.mem (.idx (.complex (.inc1 .x) false)))) = true ∧
    reads [0xA6#8, 0xB1#8] (.lda (.mem (.idx (.complex (.inc2 .y) true)))) = true ∧
    reads [0xA6#8, 0xC2#8] (.lda (.mem (.idx (.complex (.dec1 .u) false)))) = true ∧
    reads [0xA6#8, 0xE3#8] (.lda (.mem (.idx (.complex (.dec2 .s) false)))) = true ∧
    reads [0xA6#8, 0x94#8] (.lda (.mem (.idx (.complex (.plain .x) true)))) = true ∧
    reads [0xA6#8, 0xA5#8] (.lda (.mem (.idx (.complex (.accB .y) false)))) = true ∧
    reads [0xA6#8, 0x86#8] (.lda (.mem (.idx (.complex (.accA .x) false)))) = true ∧
    reads [0xA6#8, 0xC8#8, 0x80#8] (.lda (.mem (.idx (.complex (.off8 .u 0x80#8) false)))) = true ∧
    reads [0xA6#8, 0x89#8, 0x70#8, 0x01#8] (.lda (.mem (.idx (.complex (.off16 .x 0x7001#16) false)))) = true ∧
    reads [0xA6#8, 0xBB#8] (.lda (.mem (.idx (.complex (.accD .y) true)))) = true ∧
    reads [0xA6#8, 0xEC#8, 0x10#8] (.lda (.mem (.idx (.complex (.pc8 0x10#8) false)))) = true ∧
    reads [0xA6#8, 0x9D#8, 0x01#8, 0x00#8] (.lda (.mem (.idx (.complex (.pc16 0x0100#16) true)))) = true := by
  decide

/-- The register codes (45_transfer_stack R304). -/
theorem test_decode_register_codes :
    reads [0x1F#8, 0x01#8] (.tfr (.wide .d .x)) = true ∧ reads [0x1F#8, 0x23#8] (.tfr (.wide .y .u)) = true ∧
    reads [0x1F#8, 0x45#8] (.tfr (.wide .s .pc)) = true ∧ reads [0x1E#8, 0x89#8] (.exg (.narrow .a .b)) = true ∧
    reads [0x1E#8, 0xAB#8] (.exg (.narrow .cc .dp)) = true := by decide

/-- Bytes that are no instruction (30_encoding R97, 40_effective_address R143, 45_transfer_stack R305). -/
theorem test_decode_rejects :
    rejects [0x87#8] (.unknownOpcode 0x87#8) = true ∧ rejects [0x01#8] (.unknownOpcode 0x01#8) = true ∧
    rejects [0xA6#8, 0x87#8] (.illegalPostByte 1 0x87#8) = true ∧
    rejects [0xA6#8, 0x9F#8, 0x12#8, 0x34#8] (.illegalPostByte 1 0x9F#8) = true ∧
    rejects [0x10#8, 0xAE#8, 0xEA#8] (.illegalPostByte 2 0xEA#8) = true ∧
    rejects [0x1F#8, 0x81#8] (.illegalRegisterCode 1 0x81#8) = true ∧
    rejects [0x1E#8, 0x61#8] (.illegalRegisterCode 1 0x61#8) = true := by decide

/-! ## One step of an instruction (95_test_vectors, section 2) -/

/-- V20-02: LDD $FFFF (word wraps to 0000) (95_test_vectors). -/
theorem test_ldd_wraps :
    runs [0xFC#8, 0xFF#8, 0xFF#8]
      ({ blank with mem := [(0, 0xCD#8), (65535, 0xAB#8)] })
      (fun t => (t.a, t.b, t.pc, t.cc)) = some (0xAB#8, 0xCD#8, 0x8003#16, 0x08#8) := by decide

/-- V20-07: NOP at FFFF (PC wraps to 0000) (95_test_vectors). -/
theorem test_nop_at_top :
    runs [0x12#8]
      ({ blank with pc := 0xFFFF#16 })
      (fun t => (t.pc, t.cc)) = some (0x0000#16, 0x00#8) := by decide

/-- V40-03: LEAX -1,Y (wraps below 0) (95_test_vectors). -/
theorem test_leax_five_bit_wraps :
    runs [0x30#8, 0x3F#8]
      blank
      (fun t => (t.x, t.pc, t.cc)) = some (0xFFFF#16, 0x8002#16, 0x08#8) := by decide

/-- V40-09: LDD ,--S (95_test_vectors). -/
theorem test_ldd_predecrement :
    runs [0xEC#8, 0xE3#8]
      ({ blank with s := 0x1002#16, mem := [(4096, 0xAB#8), (4097, 0xCD#8)] })
      (fun t => (t.a, t.b, t.s, t.pc, t.cc)) = some (0xAB#8, 0xCD#8, 0x1000#16, 0x8002#16, 0x08#8) := by decide

/-- V40-10: LDA ,X+ with X=FFFF (X wraps) (95_test_vectors). -/
theorem test_lda_postincrement_wraps :
    runs [0xA6#8, 0x80#8]
      ({ blank with x := 0xFFFF#16, mem := [(65535, 0x99#8)] })
      (fun t => (t.a, t.x, t.pc, t.cc)) = some (0x99#8, 0x0000#16, 0x8002#16, 0x08#8) := by decide

/-- V40-23: LEAX n8,PC with register field 3 (ignored) (95_test_vectors). -/
theorem test_leax_pc8_ignores_selector :
    runs [0x30#8, 0xEC#8, 0x10#8]
      blank
      (fun t => (t.x, t.pc, t.cc)) = some (0x8013#16, 0x8003#16, 0x08#8) := by decide

/-- V40-35: LEAS ,S++ (S unchanged) (95_test_vectors). -/
theorem test_leas_own_postincrement :
    runs [0x32#8, 0xE1#8]
      ({ blank with s := 0x0400#16 })
      (fun t => (t.pc, t.cc)) = some (0x8002#16, 0x00#8) := by decide

/-- V40-37: STX ,X++ (stores incremented X) (95_test_vectors). -/
theorem test_stx_own_postincrement :
    runs [0xAF#8, 0x81#8]
      ({ blank with x := 0x1000#16 })
      (fun t => (t.x, t.pc, t.cc, readByte t 0x1000#16, readByte t 0x1001#16)) = some (0x1002#16, 0x8002#16, 0x00#8, 0x10#8, 0x02#8) := by decide

/-- V40-38: LDX ,X++ (loaded value wins) (95_test_vectors). -/
theorem test_ldx_own_postincrement :
    runs [0xAE#8, 0x81#8]
      ({ blank with x := 0x1000#16, mem := [(4096, 0x55#8), (4097, 0xAA#8)] })
      (fun t => (t.x, t.pc, t.cc)) = some (0x55AA#16, 0x8002#16, 0x00#8) := by decide

/-- V41-01: ADDA #$01 (the source's add8 example S1) (95_test_vectors). -/
theorem test_adda_overflow :
    runs [0x8B#8, 0x01#8]
      ({ blank with a := 0x7F#8 })
      (fun t => (t.a, t.pc, t.cc)) = some (0x80#8, 0x8002#16, 0x2A#8) := by decide

/-- V41-02: ADDA #$01 (carry, zero, half) (95_test_vectors). -/
theorem test_adda_carry :
    runs [0x8B#8, 0x01#8]
      ({ blank with a := 0xFF#8 })
      (fun t => (t.a, t.pc, t.cc)) = some (0x00#8, 0x8002#16, 0x25#8) := by decide

/-- V41-06: ADDB $10 (95_test_vectors). -/
theorem test_addb :
    runs [0xDB#8, 0x10#8]
      ({ blank with b := 0x10#8, mem := [(16, 0x22#8)] })
      (fun t => (t.b, t.pc, t.cc)) = some (0x32#8, 0x8002#16, 0x00#8) := by decide

/-- V41-08: ADCA #$0F with C=1 (H from carry-in) (95_test_vectors). -/
theorem test_adca_half_carry_in :
    runs [0x89#8, 0x0F#8]
      ({ blank with cc := 0x01#8 })
      (fun t => (t.a, t.pc, t.cc)) = some (0x10#8, 0x8002#16, 0x20#8) := by decide

/-- V41-09: ADCB #$7F with C=1 (V) (95_test_vectors). -/
theorem test_adcb :
    runs [0xC9#8, 0x7F#8]
      ({ blank with cc := 0x01#8 })
      (fun t => (t.b, t.pc, t.cc)) = some (0x80#8, 0x8002#16, 0x2A#8) := by decide

/-- V41-12: SUBA #$FF (7F-FF: V, C) (95_test_vectors). -/
theorem test_suba :
    runs [0x80#8, 0xFF#8]
      ({ blank with a := 0x7F#8 })
      (fun t => (t.a, t.pc, t.cc)) = some (0x80#8, 0x8002#16, 0x0B#8) := by decide

/-- V41-13: SUBB #$05 (H untouched) (95_test_vectors). -/
theorem test_subb_keeps_h :
    runs [0xC0#8, 0x05#8]
      ({ blank with b := 0x05#8, cc := 0x20#8 })
      (fun t => (t.b, t.pc, t.cc)) = some (0x00#8, 0x8002#16, 0x24#8) := by decide

/-- V41-14: SBCA #$00 with C=1 (95_test_vectors). -/
theorem test_sbca :
    runs [0x82#8, 0x00#8]
      ({ blank with cc := 0x01#8 })
      (fun t => (t.a, t.pc, t.cc)) = some (0xFF#8, 0x8002#16, 0x09#8) := by decide

/-- V41-15: SBCB #$FF with C=1 (raw = -256) (95_test_vectors). -/
theorem test_sbcb_full_borrow :
    runs [0xC2#8, 0xFF#8]
      ({ blank with cc := 0x01#8 })
      (fun t => (t.pc, t.cc)) = some (0x8002#16, 0x05#8) := by decide

/-- V41-17: CMPA #$20 (lower, unsigned) (95_test_vectors). -/
theorem test_cmpa :
    runs [0x81#8, 0x20#8]
      ({ blank with a := 0x10#8 })
      (fun t => (t.pc, t.cc)) = some (0x8002#16, 0x09#8) := by decide

/-- V41-18: CMPB #$7F with B=80 (signed less: N^V=1) (95_test_vectors). -/
theorem test_cmpb :
    runs [0xC1#8, 0x7F#8]
      ({ blank with b := 0x80#8 })
      (fun t => (t.pc, t.cc)) = some (0x8002#16, 0x02#8) := by decide

/-- V41-19: ANDA #$0F (95_test_vectors). -/
theorem test_anda :
    runs [0x84#8, 0x0F#8]
      ({ blank with a := 0xF0#8, cc := 0x03#8 })
      (fun t => (t.a, t.pc, t.cc)) = some (0x00#8, 0x8002#16, 0x05#8) := by decide

/-- V41-20: ANDB #$80 (95_test_vectors). -/
theorem test_andb :
    runs [0xC4#8, 0x80#8]
      ({ blank with b := 0xFF#8 })
      (fun t => (t.b, t.pc, t.cc)) = some (0x80#8, 0x8002#16, 0x08#8) := by decide

/-- V41-21: BITA #$80 (A unchanged) (95_test_vectors). -/
theorem test_bita :
    runs [0x85#8, 0x80#8]
      ({ blank with a := 0x80#8, cc := 0x02#8 })
      (fun t => (t.pc, t.cc)) = some (0x8002#16, 0x08#8) := by decide

/-- V41-22: BITB #$01 (95_test_vectors). -/
theorem test_bitb :
    runs [0xC5#8, 0x01#8]
      ({ blank with b := 0xFE#8 })
      (fun t => (t.pc, t.cc)) = some (0x8002#16, 0x04#8) := by decide

/-- V41-23: EORA #$FF (95_test_vectors). -/
theorem test_eora :
    runs [0x88#8, 0xFF#8]
      ({ blank with a := 0xFF#8, cc := 0x01#8 })
      (fun t => (t.a, t.pc, t.cc)) = some (0x00#8, 0x8002#16, 0x05#8) := by decide

/-- V41-24: EORB #$80 (95_test_vectors). -/
theorem test_eorb :
    runs [0xC8#8, 0x80#8]
      blank
      (fun t => (t.b, t.pc, t.cc)) = some (0x80#8, 0x8002#16, 0x08#8) := by decide

/-- V41-25: ORA #$00 (95_test_vectors). -/
theorem test_ora :
    runs [0x8A#8, 0x00#8]
      ({ blank with cc := 0x0A#8 })
      (fun t => (t.pc, t.cc)) = some (0x8002#16, 0x04#8) := by decide

/-- V41-26: ORB #$81 (95_test_vectors). -/
theorem test_orb :
    runs [0xCA#8, 0x81#8]
      ({ blank with b := 0x02#8 })
      (fun t => (t.b, t.pc, t.cc)) = some (0x83#8, 0x8002#16, 0x08#8) := by decide

/-- V41-28: MUL (0C x 0B: C from bit 7) (95_test_vectors). -/
theorem test_mul_carry :
    runs [0x3D#8]
      ({ blank with a := 0x0C#8, b := 0x0B#8 })
      (fun t => (t.a, t.b, t.pc, t.cc)) = some (0x00#8, 0x84#8, 0x8001#16, 0x01#8) := by decide

/-- V41-30: MUL (x 0: Z; N, V, H untouched) (95_test_vectors). -/
theorem test_mul_keeps_flags :
    runs [0x3D#8]
      ({ blank with a := 0x55#8, cc := 0x2B#8 })
      (fun t => (t.a, t.pc, t.cc)) = some (0x00#8, 0x8001#16, 0x2E#8) := by decide

/-- V41-32: DAA of 9A (both corrections) (95_test_vectors). -/
theorem test_daa_both :
    runs [0x19#8]
      ({ blank with a := 0x9A#8 })
      (fun t => (t.a, t.pc, t.cc)) = some (0x00#8, 0x8001#16, 0x05#8) := by decide

/-- V41-34: DAA of 94 with H=1 (low only: 94 is not above 99) (95_test_vectors). -/
theorem test_daa_low_only :
    runs [0x19#8]
      ({ blank with a := 0x94#8, cc := 0x20#8 })
      (fun t => (t.a, t.pc, t.cc)) = some (0x9A#8, 0x8001#16, 0x28#8) := by decide

/-- V42-02: ADDD #$0001 (FFFF+1: C, Z; H untouched) (95_test_vectors). -/
theorem test_addd_keeps_h :
    runs [0xC3#8, 0x00#8, 0x01#8]
      ({ blank with a := 0xFF#8, b := 0xFF#8, cc := 0x20#8 })
      (fun t => (t.a, t.b, t.pc, t.cc)) = some (0x00#8, 0x00#8, 0x8003#16, 0x25#8) := by decide

/-- V42-04: SUBD #$0001 (8000-1: V) (95_test_vectors). -/
theorem test_subd_overflow :
    runs [0x83#8, 0x00#8, 0x01#8]
      ({ blank with a := 0x80#8 })
      (fun t => (t.a, t.b, t.pc, t.cc)) = some (0x7F#8, 0xFF#8, 0x8003#16, 0x02#8) := by decide

/-- V42-06: CMPD #$1234 (equal) (95_test_vectors). -/
theorem test_cmpd :
    runs [0x10#8, 0x83#8, 0x12#8, 0x34#8]
      ({ blank with a := 0x12#8, b := 0x34#8 })
      (fun t => (t.pc, t.cc)) = some (0x8004#16, 0x04#8) := by decide

/-- V42-08: CMPX #$1001 (lower) (95_test_vectors). -/
theorem test_cmpx :
    runs [0x8C#8, 0x10#8, 0x01#8]
      ({ blank with x := 0x1000#16 })
      (fun t => (t.pc, t.cc)) = some (0x8003#16, 0x09#8) := by decide

/-- V42-09: CMPY #$8000 with Y=7FFF (V) (95_test_vectors). -/
theorem test_cmpy :
    runs [0x10#8, 0x8C#8, 0x80#8, 0x00#8]
      ({ blank with y := 0x7FFF#16 })
      (fun t => (t.pc, t.cc)) = some (0x8004#16, 0x0B#8) := by decide

/-- V42-10: CMPU ,X (95_test_vectors). -/
theorem test_cmpu :
    runs [0x11#8, 0xA3#8, 0x84#8]
      ({ blank with x := 0x0100#16, u := 0x0002#16, mem := [(257, 0x01#8)] })
      (fun t => (t.pc, t.cc)) = some (0x8003#16, 0x00#8) := by decide

/-- V42-11: CMPS #$0000 (95_test_vectors). -/
theorem test_cmps :
    runs [0x11#8, 0x8C#8, 0x00#8, 0x00#8]
      ({ blank with cc := 0x0B#8 })
      (fun t => (t.pc, t.cc)) = some (0x8004#16, 0x04#8) := by decide

/-- V43-01: NEGA (80: V, stays 80) (95_test_vectors). -/
theorem test_nega_80 :
    runs [0x40#8]
      ({ blank with a := 0x80#8 })
      (fun t => (t.pc, t.cc)) = some (0x8001#16, 0x0B#8) := by decide

/-- V43-03: NEGB (01) (95_test_vectors). -/
theorem test_negb :
    runs [0x50#8]
      ({ blank with b := 0x01#8 })
      (fun t => (t.b, t.pc, t.cc)) = some (0xFF#8, 0x8001#16, 0x09#8) := by decide

/-- V43-04: NEG $10 (95_test_vectors). -/
theorem test_neg :
    runs [0x00#8, 0x10#8]
      ({ blank with mem := [(16, 0x7F#8)] })
      (fun t => (t.pc, t.cc, readByte t 0x0010#16)) = some (0x8002#16, 0x09#8, 0x81#8) := by decide

/-- V43-05: COMA (C always 1) (95_test_vectors). -/
theorem test_coma :
    runs [0x43#8]
      blank
      (fun t => (t.a, t.pc, t.cc)) = some (0xFF#8, 0x8001#16, 0x09#8) := by decide

/-- V43-06: COMB (FF) (95_test_vectors). -/
theorem test_comb :
    runs [0x53#8]
      ({ blank with b := 0xFF#8, cc := 0x02#8 })
      (fun t => (t.b, t.pc, t.cc)) = some (0x00#8, 0x8001#16, 0x05#8) := by decide

/-- V43-07: COM ,X (95_test_vectors). -/
theorem test_com :
    runs [0x63#8, 0x84#8]
      ({ blank with x := 0x0100#16, mem := [(256, 0x0F#8)] })
      (fun t => (t.pc, t.cc, readByte t 0x0100#16)) = some (0x8002#16, 0x09#8, 0xF0#8) := by decide

/-- V43-08: INCA (7F: V; C untouched) (95_test_vectors). -/
theorem test_inca :
    runs [0x4C#8]
      ({ blank with a := 0x7F#8, cc := 0x01#8 })
      (fun t => (t.a, t.pc, t.cc)) = some (0x80#8, 0x8001#16, 0x0B#8) := by decide

/-- V43-09: INCB (FF: Z, no carry) (95_test_vectors). -/
theorem test_incb :
    runs [0x5C#8]
      ({ blank with b := 0xFF#8 })
      (fun t => (t.b, t.pc, t.cc)) = some (0x00#8, 0x8001#16, 0x04#8) := by decide

/-- V43-10: INC $0100 (95_test_vectors). -/
theorem test_inc :
    runs [0x7C#8, 0x01#8, 0x00#8]
      ({ blank with mem := [(256, 0x0F#8)] })
      (fun t => (t.pc, t.cc, readByte t 0x0100#16)) = some (0x8003#16, 0x00#8, 0x10#8) := by decide

/-- V43-11: DECA (80: V) (95_test_vectors). -/
theorem test_deca :
    runs [0x4A#8]
      ({ blank with a := 0x80#8 })
      (fun t => (t.a, t.pc, t.cc)) = some (0x7F#8, 0x8001#16, 0x02#8) := by decide

/-- V43-12: DECB (00 -> FF, C untouched) (95_test_vectors). -/
theorem test_decb :
    runs [0x5A#8]
      blank
      (fun t => (t.b, t.pc, t.cc)) = some (0xFF#8, 0x8001#16, 0x08#8) := by decide

/-- V43-13: DEC $10 (01 -> 00) (95_test_vectors). -/
theorem test_dec :
    runs [0x0A#8, 0x10#8]
      ({ blank with cc := 0x01#8, mem := [(16, 0x01#8)] })
      (fun t => (t.pc, t.cc, readByte t 0x0010#16)) = some (0x8002#16, 0x05#8, 0x00#8) := by decide

/-- V43-14: TSTA (80; V cleared, C kept) (95_test_vectors). -/
theorem test_tsta :
    runs [0x4D#8]
      ({ blank with a := 0x80#8, cc := 0x03#8 })
      (fun t => (t.pc, t.cc)) = some (0x8001#16, 0x09#8) := by decide

/-- V43-15: TSTB (00) (95_test_vectors). -/
theorem test_tstb :
    runs [0x5D#8]
      blank
      (fun t => (t.pc, t.cc)) = some (0x8001#16, 0x04#8) := by decide

/-- V43-16: TST $10 (no write) (95_test_vectors). -/
theorem test_tst :
    runs [0x0D#8, 0x10#8]
      ({ blank with mem := [(16, 0xFF#8)] })
      (fun t => (t.pc, t.cc)) = some (0x8002#16, 0x08#8) := by decide

/-- V43-17: CLRA (95_test_vectors). -/
theorem test_clra :
    runs [0x4F#8]
      ({ blank with a := 0x55#8, cc := 0x0B#8 })
      (fun t => (t.a, t.pc, t.cc)) = some (0x00#8, 0x8001#16, 0x04#8) := by decide

/-- V43-18: CLRB (H, I, F, E kept) (95_test_vectors). -/
theorem test_clrb :
    runs [0x5F#8]
      ({ blank with b := 0x55#8, cc := 0xFB#8 })
      (fun t => (t.b, t.pc, t.cc)) = some (0x00#8, 0x8001#16, 0xF4#8) := by decide

/-- V43-19: CLR $0100 (95_test_vectors). -/
theorem test_clr :
    runs [0x7F#8, 0x01#8, 0x00#8]
      ({ blank with mem := [(256, 0xAA#8)] })
      (fun t => (t.pc, t.cc, readByte t 0x0100#16)) = some (0x8003#16, 0x04#8, 0x00#8) := by decide

/-- V43-20: ASLA (81) (95_test_vectors). -/
theorem test_asla :
    runs [0x48#8]
      ({ blank with a := 0x81#8 })
      (fun t => (t.a, t.pc, t.cc)) = some (0x02#8, 0x8001#16, 0x03#8) := by decide

/-- V43-22: ASLB (C0: C, N, V=0) (95_test_vectors). -/
theorem test_aslb :
    runs [0x58#8]
      ({ blank with b := 0xC0#8 })
      (fun t => (t.b, t.pc, t.cc)) = some (0x80#8, 0x8001#16, 0x09#8) := by decide

/-- V43-23: ASL $10 (H untouched) (95_test_vectors). -/
theorem test_asl :
    runs [0x08#8, 0x10#8]
      ({ blank with cc := 0x20#8, mem := [(16, 0x80#8)] })
      (fun t => (t.pc, t.cc, readByte t 0x0010#16)) = some (0x8002#16, 0x27#8, 0x00#8) := by decide

/-- V43-24: ASRA (81: sign kept) (95_test_vectors). -/
theorem test_asra :
    runs [0x47#8]
      ({ blank with a := 0x81#8 })
      (fun t => (t.a, t.pc, t.cc)) = some (0xC0#8, 0x8001#16, 0x09#8) := by decide

/-- V43-25: ASRB (01 -> 00, C) (95_test_vectors). -/
theorem test_asrb :
    runs [0x57#8]
      ({ blank with b := 0x01#8, cc := 0x02#8 })
      (fun t => (t.b, t.pc, t.cc)) = some (0x00#8, 0x8001#16, 0x07#8) := by decide

/-- V43-26: ASR ,X (95_test_vectors). -/
theorem test_asr :
    runs [0x67#8, 0x84#8]
      ({ blank with x := 0x0100#16, mem := [(256, 0xFE#8)] })
      (fun t => (t.pc, t.cc, readByte t 0x0100#16)) = some (0x8002#16, 0x08#8, 0xFF#8) := by decide

/-- V43-27: LSRA (81) (95_test_vectors). -/
theorem test_lsra :
    runs [0x44#8]
      ({ blank with a := 0x81#8, cc := 0x08#8 })
      (fun t => (t.a, t.pc, t.cc)) = some (0x40#8, 0x8001#16, 0x01#8) := by decide

/-- V43-28: LSRB (01) (95_test_vectors). -/
theorem test_lsrb :
    runs [0x54#8]
      ({ blank with b := 0x01#8 })
      (fun t => (t.b, t.pc, t.cc)) = some (0x00#8, 0x8001#16, 0x05#8) := by decide

/-- V43-29: LSR $10 (95_test_vectors). -/
theorem test_lsr :
    runs [0x04#8, 0x10#8]
      ({ blank with mem := [(16, 0x80#8)] })
      (fun t => (t.pc, t.cc, readByte t 0x0010#16)) = some (0x8002#16, 0x00#8, 0x40#8) := by decide

/-- V43-30: ROLA (80, C=1) (95_test_vectors). -/
theorem test_rola :
    runs [0x49#8]
      ({ blank with a := 0x80#8, cc := 0x01#8 })
      (fun t => (t.a, t.pc, t.cc)) = some (0x01#8, 0x8001#16, 0x03#8) := by decide

/-- V43-31: ROLB (40, C=0: V) (95_test_vectors). -/
theorem test_rolb :
    runs [0x59#8]
      ({ blank with b := 0x40#8 })
      (fun t => (t.b, t.pc, t.cc)) = some (0x80#8, 0x8001#16, 0x0A#8) := by decide

/-- V43-32: ROL $10 (95_test_vectors). -/
theorem test_rol :
    runs [0x09#8, 0x10#8]
      ({ blank with cc := 0x01#8, mem := [(16, 0x55#8)] })
      (fun t => (t.pc, t.cc, readByte t 0x0010#16)) = some (0x8002#16, 0x0A#8, 0xAB#8) := by decide

/-- V43-33: RORA (01, C=1) (95_test_vectors). -/
theorem test_rora :
    runs [0x46#8]
      ({ blank with a := 0x01#8, cc := 0x01#8 })
      (fun t => (t.a, t.pc, t.cc)) = some (0x80#8, 0x8001#16, 0x09#8) := by decide

/-- V43-34: RORB (00, C=1) (95_test_vectors). -/
theorem test_rorb :
    runs [0x56#8]
      ({ blank with cc := 0x01#8 })
      (fun t => (t.b, t.pc, t.cc)) = some (0x80#8, 0x8001#16, 0x08#8) := by decide

/-- V43-35: ROR $0100 (V untouched) (95_test_vectors). -/
theorem test_ror :
    runs [0x76#8, 0x01#8, 0x00#8]
      ({ blank with cc := 0x02#8, mem := [(256, 0x02#8)] })
      (fun t => (t.pc, t.cc, readByte t 0x0100#16)) = some (0x8003#16, 0x02#8, 0x01#8) := by decide

/-- V44-01: LDA #$00 (Z; V and C untouched, unlike the MC6809) (95_test_vectors). -/
theorem test_lda_keeps_v_c :
    runs [0x86#8, 0x00#8]
      ({ blank with a := 0x55#8, cc := 0x03#8 })
      (fun t => (t.a, t.pc, t.cc)) = some (0x00#8, 0x8002#16, 0x07#8) := by decide

/-- V44-03: LDB $0100 (95_test_vectors). -/
theorem test_ldb :
    runs [0xF6#8, 0x01#8, 0x00#8]
      ({ blank with cc := 0x0C#8, mem := [(256, 0x7F#8)] })
      (fun t => (t.b, t.pc, t.cc)) = some (0x7F#8, 0x8003#16, 0x00#8) := by decide

/-- V44-06: LDY $10 (95_test_vectors). -/
theorem test_ldy :
    runs [0x10#8, 0x9E#8, 0x10#8]
      ({ blank with mem := [(16, 0xFF#8), (17, 0xFE#8)] })
      (fun t => (t.y, t.pc, t.cc)) = some (0xFFFE#16, 0x8003#16, 0x08#8) := by decide

/-- V44-07: LDU ,X (95_test_vectors). -/
theorem test_ldu :
    runs [0xEE#8, 0x84#8]
      ({ blank with x := 0x0100#16, mem := [(256, 0x04#8)] })
      (fun t => (t.u, t.pc, t.cc)) = some (0x0400#16, 0x8002#16, 0x00#8) := by decide

/-- V44-08: LDS #$0400 (95_test_vectors). -/
theorem test_lds :
    runs [0x10#8, 0xCE#8, 0x04#8, 0x00#8]
      blank
      (fun t => (t.s, t.pc, t.cc)) = some (0x0400#16, 0x8004#16, 0x00#8) := by decide

/-- V44-10: STA $0100 (A=00: Z set, V kept) (95_test_vectors). -/
theorem test_sta :
    runs [0xB7#8, 0x01#8, 0x00#8]
      ({ blank with cc := 0x02#8, mem := [(256, 0xFF#8)] })
      (fun t => (t.pc, t.cc, readByte t 0x0100#16)) = some (0x8003#16, 0x06#8, 0x00#8) := by decide

/-- V44-11: STB ,X+ (95_test_vectors). -/
theorem test_stb :
    runs [0xE7#8, 0x80#8]
      ({ blank with b := 0x80#8, x := 0x0100#16 })
      (fun t => (t.x, t.pc, t.cc, readByte t 0x0100#16)) = some (0x0101#16, 0x8002#16, 0x08#8, 0x80#8) := by decide

/-- V44-12: STD $10 (95_test_vectors). -/
theorem test_std :
    runs [0xDD#8, 0x10#8]
      ({ blank with a := 0x12#8, b := 0x34#8 })
      (fun t => (t.pc, t.cc, readByte t 0x0010#16, readByte t 0x0011#16)) = some (0x8002#16, 0x00#8, 0x12#8, 0x34#8) := by decide

/-- V44-14: STY ,--S (95_test_vectors). -/
theorem test_sty :
    runs [0x10#8, 0xAF#8, 0xE3#8]
      ({ blank with s := 0x0400#16, mem := [(1022, 0xFF#8), (1023, 0xFF#8)] })
      (fun t => (t.s, t.pc, t.cc, readByte t 0x03FE#16, readByte t 0x03FF#16)) = some (0x03FE#16, 0x8003#16, 0x04#8, 0x00#8, 0x00#8) := by decide

/-- V44-15: STU $10 (95_test_vectors). -/
theorem test_stu :
    runs [0xDF#8, 0x10#8]
      ({ blank with u := 0x8001#16 })
      (fun t => (t.pc, t.cc, readByte t 0x0010#16, readByte t 0x0011#16)) = some (0x8002#16, 0x08#8, 0x80#8, 0x01#8) := by decide

/-- V44-16: STS $0100 (95_test_vectors). -/
theorem test_sts :
    runs [0x10#8, 0xFF#8, 0x01#8, 0x00#8]
      ({ blank with s := 0x0400#16 })
      (fun t => (t.pc, t.cc, readByte t 0x0100#16)) = some (0x8004#16, 0x00#8, 0x04#8) := by decide

/-- V44-20: LEAS -2,S (no flags) (95_test_vectors). -/
theorem test_leas_no_flags :
    runs [0x32#8, 0x7E#8]
      ({ blank with s := 0x0002#16, cc := 0x0F#8 })
      (fun t => (t.s, t.pc, t.cc)) = some (0x0000#16, 0x8002#16, 0x0F#8) := by decide

/-- V44-21: LEAU ,X (no flags) (95_test_vectors). -/
theorem test_leau :
    runs [0x33#8, 0x84#8]
      ({ blank with u := 0x1234#16 })
      (fun t => (t.u, t.pc, t.cc)) = some (0x0000#16, 0x8002#16, 0x00#8) := by decide

/-- V45-03: TFR A,CC (writes all eight bits) (95_test_vectors). -/
theorem test_tfr_to_cc :
    runs [0x1F#8, 0x8A#8]
      ({ blank with a := 0xFF#8 })
      (fun t => (t.pc, t.cc)) = some (0x8002#16, 0xFF#8) := by decide

/-- V45-05: TFR PC,X (PC after the instruction) (95_test_vectors). -/
theorem test_tfr_pc :
    runs [0x1F#8, 0x51#8]
      blank
      (fun t => (t.x, t.pc, t.cc)) = some (0x8002#16, 0x8002#16, 0x00#8) := by decide

/-- V45-08: EXG D,X (95_test_vectors). -/
theorem test_exg_d_x :
    runs [0x1E#8, 0x01#8]
      ({ blank with a := 0x12#8, b := 0x34#8, x := 0xABCD#16 })
      (fun t => (t.a, t.b, t.x, t.pc, t.cc)) = some (0xAB#8, 0xCD#8, 0x1234#16, 0x8002#16, 0x00#8) := by decide

/-- V45-07: EXG A,B (95_test_vectors). -/
theorem test_exg_a_b :
    runs [0x1E#8, 0x89#8]
      ({ blank with a := 0x12#8, b := 0x34#8 })
      (fun t => (t.a, t.b, t.pc, t.cc)) = some (0x34#8, 0x12#8, 0x8002#16, 0x00#8) := by decide

/-- V45-12: SEX (B=80) (95_test_vectors). -/
theorem test_sex :
    runs [0x1D#8]
      ({ blank with b := 0x80#8, cc := 0x02#8 })
      (fun t => (t.a, t.pc, t.cc)) = some (0xFF#8, 0x8001#16, 0x0A#8) := by decide

/-- V45-14: ABX (B unsigned; no flags) (95_test_vectors). -/
theorem test_abx_unsigned :
    runs [0x3A#8]
      ({ blank with b := 0xFF#8, x := 0xFF80#16, cc := 0x0F#8 })
      (fun t => (t.x, t.pc, t.cc)) = some (0x007F#16, 0x8001#16, 0x0F#8) := by decide

/-- V45-17: PSHS all (mask FF) (95_test_vectors). -/
theorem test_pshs_all :
    runs [0x34#8, 0xFF#8]
      ({ blank with a := 0x01#8, b := 0x02#8, dp := 0x03#8, x := 0x0506#16, y := 0x0708#16, u := 0x090A#16, s := 0x0400#16, cc := 0x04#8 })
      (fun t => (t.s, t.pc, t.cc, span t 0x03F4#16 12)) = some (0x03F4#16, 0x8002#16, 0x04#8, [0x04#8, 0x01#8, 0x02#8, 0x03#8, 0x05#8, 0x06#8, 0x07#8, 0x08#8, 0x09#8, 0x0A#8, 0x80#8, 0x02#8]) := by decide

/-- V45-18: PULS all but PC (mask 7F) (95_test_vectors). -/
theorem test_puls_all_but_pc :
    runs [0x35#8, 0x7F#8]
      ({ blank with s := 0x0100#16, mem := [(256, 0x81#8), (257, 0x11#8), (258, 0x22#8), (259, 0x33#8), (260, 0x44#8), (261, 0x55#8), (262, 0x66#8), (263, 0x77#8), (264, 0x88#8), (265, 0x99#8)] })
      (fun t => ((t.a, t.b, t.dp), (t.x, t.y, t.u), (t.s, t.pc, t.cc))) = some ((0x11#8, 0x22#8, 0x33#8), (0x4455#16, 0x6677#16, 0x8899#16), (0x010A#16, 0x8002#16, 0x81#8)) := by decide

/-- V45-19: PSHU S,X (bit 6 is S on the U stack) (95_test_vectors). -/
theorem test_pshu :
    runs [0x36#8, 0x50#8]
      ({ blank with x := 0x1234#16, u := 0x0300#16, s := 0x0400#16 })
      (fun t => (t.u, t.pc, t.cc, span t 0x02FC#16 3)) = some (0x02FC#16, 0x8002#16, 0x00#8, [0x12#8, 0x34#8, 0x04#8]) := by decide

/-- V45-20: PULU PC (a jump through U) (95_test_vectors). -/
theorem test_pulu_pc :
    runs [0x37#8, 0x80#8]
      ({ blank with u := 0x0200#16, mem := [(512, 0x90#8), (513, 0x10#8)] })
      (fun t => (t.u, t.pc, t.cc)) = some (0x0202#16, 0x9010#16, 0x00#8) := by decide

/-- V45-23: PSHS A,B with S=8001 (second byte lands in ROM) (95_test_vectors). -/
theorem test_pshs_into_rom :
    stops [0x34#8, 0x06#8]
      ({ blank with a := 0x12#8, b := 0x34#8, s := 0x8001#16 })
      (fun t => (t.s, t.pc, t.cc)) = some (.romWrite 0x8000#16, (0x8000#16, 0x8002#16, 0x00#8)) := by decide

/-- V45-25: ANDCC #$EF (95_test_vectors). -/
theorem test_andcc :
    runs [0x1C#8, 0xEF#8]
      ({ blank with cc := 0xFF#8 })
      (fun t => (t.pc, t.cc)) = some (0x8002#16, 0xEF#8) := by decide

/-- V45-26: ORCC #$50 (95_test_vectors). -/
theorem test_orcc :
    runs [0x1A#8, 0x50#8]
      blank
      (fun t => (t.pc, t.cc)) = some (0x8002#16, 0x50#8) := by decide

/-- V47-02: SWI2 (95_test_vectors). -/
theorem test_swi2_faults :
    stops [0x10#8, 0x3F#8]
      ({ blank with s := 0x0400#16 })
      (fun t => (t.pc, t.cc)) = some (.placeholderInstruction .swi2 0x8000#16, (0x8002#16, 0x00#8)) := by decide

/-- V47-04: CWAI #$EF (95_test_vectors). -/
theorem test_cwai_faults :
    stops [0x3C#8, 0xEF#8]
      ({ blank with cc := 0xFF#8 })
      (fun t => (t.pc, t.cc)) = some (.placeholderInstruction .cwai 0x8000#16, (0x8002#16, 0xFF#8)) := by decide

/-- V47-05: SYNC (95_test_vectors). -/
theorem test_sync_faults :
    stops [0x13#8]
      blank
      (fun t => (t.pc, t.cc)) = some (.placeholderInstruction .sync 0x8000#16, (0x8001#16, 0x00#8)) := by decide

/-- V47-08: CWAI #$EF (operand consumed, CC untouched) (95_test_vectors). -/
theorem test_cwai_nop :
    runs [0x3C#8, 0xEF#8]
      ({ underNop with cc := 0xFF#8 })
      (fun t => (t.pc, t.cc)) = some (0x8002#16, 0xFF#8) := by decide

/-- V47-09: SYNC (95_test_vectors). -/
theorem test_sync_nop :
    runs [0x13#8]
      underNop
      (fun t => (t.pc, t.cc)) = some (0x8001#16, 0x00#8) := by decide

/-- V47-11: SWI (vector at FFFA) (95_test_vectors). -/
theorem test_swi_mc6809 :
    runs [0x3F#8]
      ({ underMc6809 with a := 0x01#8, b := 0x02#8, dp := 0x03#8, x := 0x0506#16, y := 0x0708#16, u := 0x090A#16, s := 0x0400#16, cc := 0x04#8, mem := [(65530, 0x90#8)] })
      (fun t => (t.s, t.pc, t.cc, span t 0x03F4#16 12)) = some (0x03F4#16, 0x9000#16, 0xD4#8, [0x84#8, 0x01#8, 0x02#8, 0x03#8, 0x05#8, 0x06#8, 0x07#8, 0x08#8, 0x09#8, 0x0A#8, 0x80#8, 0x01#8]) := by decide

/-- V47-13: SWI3 (vector at FFF2) (95_test_vectors). -/
theorem test_swi3_mc6809 :
    runs [0x11#8, 0x3F#8]
      ({ underMc6809 with s := 0x0400#16, mem := [(65522, 0x92#8)] })
      (fun t => (t.s, t.pc, t.cc, span t 0x03F4#16 12)) = some (0x03F4#16, 0x9200#16, 0x80#8, [0x80#8, 0x00#8, 0x00#8, 0x00#8, 0x00#8, 0x00#8, 0x00#8, 0x00#8, 0x00#8, 0x00#8, 0x80#8, 0x02#8]) := by decide

/-- V47-14: RTI with E=1 in the pulled CC (95_test_vectors). -/
theorem test_rti_e_set :
    runs [0x3B#8]
      ({ underMc6809 with s := 0x03F4#16, mem := [(1012, 0x84#8), (1013, 0x01#8), (1014, 0x02#8), (1015, 0x03#8), (1016, 0x05#8), (1017, 0x06#8), (1018, 0x07#8), (1019, 0x08#8), (1020, 0x09#8), (1021, 0x0A#8), (1022, 0x80#8), (1023, 0x01#8)] })
      (fun t => ((t.a, t.b, t.dp), (t.x, t.y, t.u), (t.s, t.pc, t.cc))) = some ((0x01#8, 0x02#8, 0x03#8), (0x0506#16, 0x0708#16, 0x090A#16), (0x0400#16, 0x8001#16, 0x84#8)) := by decide

/-- V47-15: RTI with E=0 in the pulled CC (95_test_vectors). -/
theorem test_rti_e_clear :
    runs [0x3B#8]
      ({ underMc6809 with s := 0x03FD#16, mem := [(1021, 0x04#8), (1022, 0x80#8), (1023, 0x01#8)] })
      (fun t => (t.s, t.pc, t.cc)) = some (0x0400#16, 0x8001#16, 0x04#8) := by decide

/-- V60-04: STD $7FFF (first byte written, second faults) (95_test_vectors). -/
theorem test_std_half_in_rom :
    stops [0xFD#8, 0x7F#8, 0xFF#8]
      ({ blank with a := 0x12#8, b := 0x34#8 })
      (fun t => (t.pc, t.cc, readByte t 0x7FFF#16)) = some (.romWrite 0x8000#16, (0x8003#16, 0x00#8, 0x12#8)) := by decide

/-- V60-05: INC $8000 (read-modify-write on ROM) (95_test_vectors). -/
theorem test_inc_rom :
    stops [0x7C#8, 0x80#8, 0x00#8]
      blank
      (fun t => (t.pc, t.cc)) = some (.romWrite 0x8000#16, (0x8003#16, 0x00#8)) := by decide

/-- V60-07: TST $8000 (no write, no fault) (95_test_vectors). -/
theorem test_tst_rom :
    runs [0x7D#8, 0x80#8, 0x00#8]
      blank
      (fun t => (t.pc, t.cc)) = some (0x8003#16, 0x00#8) := by decide

/-- V46-03, V46-04. -/
theorem test_bra :
    runs [0x20#8, 0x80#8] blank (fun t => (t.pc, t.cc)) = some (0x7F82#16, 0x00#8) ∧
    runs [0x20#8, 0x7F#8] blank (fun t => (t.pc, t.cc)) = some (0x8081#16, 0x00#8) := by decide

/-- V46-06, V46-07. -/
theorem test_bhi :
    runs [0x22#8, 0x10#8] blank (fun t => (t.pc, t.cc)) = some (0x8012#16, 0x00#8) ∧
    runs [0x22#8, 0x10#8] ({ blank with cc := 0x04#8 }) (fun t => (t.pc, t.cc)) = some (0x8002#16, 0x04#8) := by decide

/-- V46-08, V46-09. -/
theorem test_bls :
    runs [0x23#8, 0x10#8] ({ blank with cc := 0x01#8 }) (fun t => (t.pc, t.cc)) = some (0x8012#16, 0x01#8) ∧
    runs [0x23#8, 0x10#8] blank (fun t => (t.pc, t.cc)) = some (0x8002#16, 0x00#8) := by decide

/-- V46-10, V46-11. -/
theorem test_bcc :
    runs [0x24#8, 0x10#8] blank (fun t => (t.pc, t.cc)) = some (0x8012#16, 0x00#8) ∧
    runs [0x24#8, 0x10#8] ({ blank with cc := 0x01#8 }) (fun t => (t.pc, t.cc)) = some (0x8002#16, 0x01#8) := by decide

/-- V46-12, V46-13. -/
theorem test_bcs :
    runs [0x25#8, 0x10#8] ({ blank with cc := 0x01#8 }) (fun t => (t.pc, t.cc)) = some (0x8012#16, 0x01#8) ∧
    runs [0x25#8, 0x10#8] blank (fun t => (t.pc, t.cc)) = some (0x8002#16, 0x00#8) := by decide

/-- V46-14, V46-15. -/
theorem test_bne :
    runs [0x26#8, 0x10#8] blank (fun t => (t.pc, t.cc)) = some (0x8012#16, 0x00#8) ∧
    runs [0x26#8, 0x10#8] ({ blank with cc := 0x04#8 }) (fun t => (t.pc, t.cc)) = some (0x8002#16, 0x04#8) := by decide

/-- V46-16, V46-17. -/
theorem test_beq :
    runs [0x27#8, 0x10#8] ({ blank with cc := 0x04#8 }) (fun t => (t.pc, t.cc)) = some (0x8012#16, 0x04#8) ∧
    runs [0x27#8, 0x10#8] blank (fun t => (t.pc, t.cc)) = some (0x8002#16, 0x00#8) := by decide

/-- V46-18, V46-19. -/
theorem test_bvc :
    runs [0x28#8, 0x10#8] blank (fun t => (t.pc, t.cc)) = some (0x8012#16, 0x00#8) ∧
    runs [0x28#8, 0x10#8] ({ blank with cc := 0x02#8 }) (fun t => (t.pc, t.cc)) = some (0x8002#16, 0x02#8) := by decide

/-- V46-20, V46-21. -/
theorem test_bvs :
    runs [0x29#8, 0x10#8] ({ blank with cc := 0x02#8 }) (fun t => (t.pc, t.cc)) = some (0x8012#16, 0x02#8) ∧
    runs [0x29#8, 0x10#8] blank (fun t => (t.pc, t.cc)) = some (0x8002#16, 0x00#8) := by decide

/-- V46-22, V46-23. -/
theorem test_bpl :
    runs [0x2A#8, 0x10#8] blank (fun t => (t.pc, t.cc)) = some (0x8012#16, 0x00#8) ∧
    runs [0x2A#8, 0x10#8] ({ blank with cc := 0x08#8 }) (fun t => (t.pc, t.cc)) = some (0x8002#16, 0x08#8) := by decide

/-- V46-24, V46-25. -/
theorem test_bmi :
    runs [0x2B#8, 0x10#8] ({ blank with cc := 0x08#8 }) (fun t => (t.pc, t.cc)) = some (0x8012#16, 0x08#8) ∧
    runs [0x2B#8, 0x10#8] blank (fun t => (t.pc, t.cc)) = some (0x8002#16, 0x00#8) := by decide

/-- V46-26, V46-27. -/
theorem test_bge :
    runs [0x2C#8, 0x10#8] ({ blank with cc := 0x0A#8 }) (fun t => (t.pc, t.cc)) = some (0x8012#16, 0x0A#8) ∧
    runs [0x2C#8, 0x10#8] ({ blank with cc := 0x08#8 }) (fun t => (t.pc, t.cc)) = some (0x8002#16, 0x08#8) := by decide

/-- V46-28, V46-29. -/
theorem test_blt :
    runs [0x2D#8, 0x10#8] ({ blank with cc := 0x02#8 }) (fun t => (t.pc, t.cc)) = some (0x8012#16, 0x02#8) ∧
    runs [0x2D#8, 0x10#8] ({ blank with cc := 0x0A#8 }) (fun t => (t.pc, t.cc)) = some (0x8002#16, 0x0A#8) := by decide

/-- V46-35, V46-31. -/
theorem test_bgt :
    runs [0x2E#8, 0x10#8] ({ blank with cc := 0x0A#8 }) (fun t => (t.pc, t.cc)) = some (0x8012#16, 0x0A#8) ∧
    runs [0x2E#8, 0x10#8] ({ blank with cc := 0x04#8 }) (fun t => (t.pc, t.cc)) = some (0x8002#16, 0x04#8) := by decide

/-- V46-32, V46-36. -/
theorem test_ble :
    runs [0x2F#8, 0x10#8] ({ blank with cc := 0x08#8 }) (fun t => (t.pc, t.cc)) = some (0x8012#16, 0x08#8) ∧
    runs [0x2F#8, 0x10#8] ({ blank with cc := 0x0A#8 }) (fun t => (t.pc, t.cc)) = some (0x8002#16, 0x0A#8) := by decide

/-- V46-37, V46-38. -/
theorem test_lbra :
    runs [0x16#8, 0x01#8, 0x00#8] blank (fun t => (t.pc, t.cc)) = some (0x8103#16, 0x00#8) ∧
    runs [0x16#8, 0xFF#8, 0xFD#8] blank (fun t => (t.pc, t.cc)) = some (0x8000#16, 0x00#8) := by decide

/-- V46-40, V46-41. -/
theorem test_lbne :
    runs [0x10#8, 0x26#8, 0x00#8, 0xFC#8] blank (fun t => (t.pc, t.cc)) = some (0x8100#16, 0x00#8) ∧
    runs [0x10#8, 0x26#8, 0x00#8, 0xFC#8] ({ blank with cc := 0x04#8 }) (fun t => (t.pc, t.cc)) = some (0x8004#16, 0x04#8) := by decide

/-- V46-05: BRN (never) (95_test_vectors). -/
theorem test_brn :
    runs [0x21#8, 0x10#8]
      blank
      (fun t => (t.pc, t.cc)) = some (0x8002#16, 0x00#8) := by decide

/-- V46-39: LBRN (95_test_vectors). -/
theorem test_lbrn :
    runs [0x10#8, 0x21#8, 0x01#8, 0x00#8]
      blank
      (fun t => (t.pc, t.cc)) = some (0x8004#16, 0x00#8) := by decide

/-- V46-42: LBEQ -4 (to itself), taken (95_test_vectors). -/
theorem test_lbeq_itself :
    runs [0x10#8, 0x27#8, 0xFF#8, 0xFC#8]
      ({ blank with cc := 0x04#8 })
      (fun t => (t.cc)) = some (0x04#8) := by decide

/-- V46-43: LBGE with N=1, V=0 (not taken) (95_test_vectors). -/
theorem test_lbge :
    runs [0x10#8, 0x2C#8, 0x01#8, 0x00#8]
      ({ blank with cc := 0x08#8 })
      (fun t => (t.pc, t.cc)) = some (0x8004#16, 0x08#8) := by decide

/-- V46-44: LBHI, taken (95_test_vectors). -/
theorem test_lbhi :
    runs [0x10#8, 0x22#8, 0x7F#8, 0x00#8]
      blank
      (fun t => (t.pc, t.cc)) = some (0xFF04#16, 0x00#8) := by decide

/-- V46-45: BSR +04 (95_test_vectors). -/
theorem test_bsr :
    runs [0x8D#8, 0x04#8]
      ({ blank with s := 0x0400#16 })
      (fun t => (t.s, t.pc, t.cc, readByte t 0x03FE#16, readByte t 0x03FF#16)) = some (0x03FE#16, 0x8006#16, 0x00#8, 0x80#8, 0x02#8) := by decide

/-- V46-55: BSR with S=8002 (push into ROM) (95_test_vectors). -/
theorem test_bsr_into_rom :
    stops [0x8D#8, 0x04#8]
      ({ blank with s := 0x8002#16 })
      (fun t => (t.s, t.pc, t.cc)) = some (.romWrite 0x8001#16, (0x8001#16, 0x8002#16, 0x00#8)) := by decide

/-- V46-46: LBSR +0100 (95_test_vectors). -/
theorem test_lbsr :
    runs [0x17#8, 0x01#8, 0x00#8]
      ({ blank with s := 0x0400#16 })
      (fun t => (t.s, t.pc, t.cc, readByte t 0x03FE#16, readByte t 0x03FF#16)) = some (0x03FE#16, 0x8103#16, 0x00#8, 0x80#8, 0x03#8) := by decide

/-- V46-48: JSR ,X (95_test_vectors). -/
theorem test_jsr_indexed :
    runs [0xAD#8, 0x84#8]
      ({ blank with x := 0x9000#16, s := 0x0400#16 })
      (fun t => (t.s, t.pc, t.cc, readByte t 0x03FE#16, readByte t 0x03FF#16)) = some (0x03FE#16, 0x9000#16, 0x00#8, 0x80#8, 0x02#8) := by decide

/-- V46-49: JSR ,S++ (EA and its increment before the push) (95_test_vectors). -/
theorem test_jsr_own_increment :
    runs [0xAD#8, 0xE1#8]
      ({ blank with s := 0x0400#16 })
      (fun t => (t.pc, t.cc, readByte t 0x0400#16, readByte t 0x0401#16)) = some (0x0400#16, 0x00#8, 0x80#8, 0x02#8) := by decide

/-- V46-52: JMP [,X] (95_test_vectors). -/
theorem test_jmp_indirect :
    runs [0x6E#8, 0x94#8]
      ({ blank with x := 0x0100#16, mem := [(256, 0x90#8), (257, 0x10#8)] })
      (fun t => (t.pc, t.cc)) = some (0x9010#16, 0x00#8) := by decide

/-- V46-53: JMP $10 (direct) (95_test_vectors). -/
theorem test_jmp_direct :
    runs [0x0E#8, 0x10#8]
      ({ blank with dp := 0x12#8 })
      (fun t => (t.pc, t.cc)) = some (0x1210#16, 0x00#8) := by decide

/-- V46-54: RTS (95_test_vectors). -/
theorem test_rts :
    runs [0x39#8]
      ({ blank with s := 0x03FE#16, mem := [(1022, 0x80#8), (1023, 0x02#8)] })
      (fun t => (t.s, t.pc, t.cc)) = some (0x0400#16, 0x8002#16, 0x00#8) := by decide

/-- V60-08, V60-02: a page byte before an empty slot. -/
theorem test_page_bytes_step :
    stops [0x11#8, 0x10#8] blank (fun t => t.pc) = some (.unknownOpcode .page3 0x10#8 0x8000#16, 0x8002#16) ∧
    stops [0x10#8, 0x00#8] blank (fun t => t.pc) = some (.unknownOpcode .page2 0x00#8 0x8000#16, 0x8002#16) := by decide

/-- V40-42, V45-10, V60-09: bytes that are no instruction. -/
theorem test_bad_bytes_step :
    stops [0xA6#8, 0x9F#8, 0x12#8, 0x34#8] blank (fun t => t.pc) =
      some (.illegalPostByte 0x9F#8 0x8001#16, 0x8002#16) ∧
    stops [0x1F#8, 0x81#8] blank (fun t => t.pc) = some (.illegalRegisterCode 0x81#8 0x8001#16, 0x8002#16) ∧
    stops [0x87#8] blank (fun t => t.pc) = some (.unknownOpcode .page1 0x87#8 0x8000#16, 0x8001#16) := by decide

/-- V40-02, V40-14, V40-16, V40-19, V40-20, V40-25: addresses of indexed forms. -/
theorem test_indexed_addresses :
    (indexedAddr (.simple .x 0x0F#5) { blank with x := 0x1000#16 }).1 = 0x100F#16 ∧
    (indexedAddr (.complex (.accB .y) false) { blank with b := 0x80#8, y := 0x0010#16 }).1 = 0xFF90#16 ∧
    (indexedAddr (.complex (.off8 .x 0x80#8) false) { blank with x := 0x1000#16 }).1 = 0x0F80#16 ∧
    (indexedAddr (.complex (.off16 .x 0xF000#16) false) { blank with x := 0x2000#16 }).1 = 0x1000#16 ∧
    (indexedAddr (.complex (.accD .x) false) { blank with a := 0xFF#8, b := 0xFE#8, x := 0x1000#16 }).1 = 0x0FFE#16 ∧
    (indexedAddr (.complex (.pc16 0xFFFC#16) false) { blank with pc := 0x8004#16 }).1 = 0x8000#16 := by decide

/-- V40-29, V40-31: indirect forms. -/
theorem test_indirect_addresses :
    indexedAddr (.complex (.dec1 .x) true) { blank with x := 0x1001#16, mem := [(0x1000, 0x20#8)] } =
      (0x2000#16, { blank with x := 0x1000#16, mem := [(0x1000, 0x20#8)] }) ∧
    (indexedAddr (.complex (.pc16 0x0100#16) true) { blank with pc := 0x8004#16, mem := [(0x8105, 0x50#8)] }).1 =
      0x0050#16 := by decide

/-! ## Witnesses: states and operands that meet the hypotheses of each statement -/

theorem witness_DecodeEncode :
    wellFormed .nop = true ∧ wellFormed (.prefixPage2 0x00#8) = true ∧ wellFormed (.prefixPage3 0xFF#8) = true ∧
    wellFormed (.lda (.mem (.idx (.complex (.pc16 0x8000#16) true)))) = true := by decide

theorem witness_DecodedWellFormed :
    decode [0x10#8, 0xAE#8, 0x99#8, 0xFF#8, 0xFF#8] = .ok (.ldy (.mem (.idx (.complex (.off16 .x 0xFFFF#16) true))), 5) ∧
    decode [0x12#8] = .ok (.nop, 1) := by constructor <;> rfl

/-- Both directions: an empty slot of each page, and a filled one. -/
theorem witness_UnknownOpcodes :
    decode [0x01#8] = .error (.unknownOpcode 0x01#8) ∧ 0x01#8 ∈ page1Empty ∧ 0x00#8 ∉ page1Empty ∧
    0x10#8 ∉ page2Filled ∧ 0x21#8 ∈ page2Filled ∧ 0x11#8 ∉ page3Filled ∧ 0x3F#8 ∈ page3Filled := by
  refine ⟨rfl, ?_⟩; decide

theorem witness_IllegalPostBytes :
    undefinedSubMode 0x87#8 = true ∧ undefinedSubMode 0xFF#8 = true ∧ undefinedSubMode 0x7F#8 = false ∧
    undefinedSubMode 0x86#8 = false := by decide

theorem witness_EncodeDecodePostByte :
    decodeIndexed 0x80#8 0x00#8 0x00#8 = some (.complex (.inc1 .x) false, 0) ∧
    decodeIndexed 0x7F#8 0x00#8 0x00#8 = some (.simple .s 0x1F#5, 0) ∧
    decodeIndexed 0x9D#8 0x12#8 0x34#8 = some (.complex (.pc16 0x1234#16) true, 2) ∧
    (0x9D#8 : Byte).toNat / 32 % 4 = 0 := by decide

/-- Both widths, at the least and the greatest codes, and bytes just outside. -/
theorem witness_ValidPairs :
    decodePair 0x00#8 = some (.wide .d .d) ∧ decodePair 0x55#8 = some (.wide .pc .pc) ∧
    decodePair 0x88#8 = some (.narrow .a .a) ∧ decodePair 0xBB#8 = some (.narrow .dp .dp) ∧
    decodePair 0x56#8 = none ∧ decodePair 0x58#8 = none ∧ decodePair 0xBC#8 = none := by decide

/-- The last RAM address and the first ROM address. -/
theorem witness_ByteWrite : (0x7FFF#16 : Addr).toNat < 0x8000 ∧ 0x8000 ≤ (0x8000#16 : Addr).toNat := by decide

theorem witness_WordAccess : (0x7FFE#16 : Addr).toNat < 0x7FFF := by decide

/-- A in each of the four cases of DAA. -/
theorem witness_DecimalAdjust :
    (9 < (0x9A#8 : Byte).toNat % 16 ∧ 0x99 < (0x9A#8 : Byte).toNat) ∧
    (9 < (0x0A#8 : Byte).toNat % 16 ∧ ¬ 0x99 < (0x0A#8 : Byte).toNat) ∧
    (¬ 9 < (0xA0#8 : Byte).toNat % 16 ∧ 0x99 < (0xA0#8 : Byte).toNat) ∧
    (¬ 9 < (0x99#8 : Byte).toNat % 16 ∧ ¬ 0x99 < (0x99#8 : Byte).toNat) := by decide

/-- The address of a byte form just below and at the start of ROM. -/
theorem witness_UnaryMemory :
    (ea (.ext 0x7FFF#16) blank).1.toNat < 0x8000 ∧ 0x8000 ≤ (ea (.ext 0x8000#16) blank).1.toNat := by decide

/-- The address of a word form on both sides of, and at, the last RAM address. -/
theorem witness_Stores :
    (ea (.ext 0x7FFE#16) blank).1.toNat < 0x7FFF ∧ (ea (.ext 0x7FFF#16) blank).1.toNat = 0x7FFF ∧
    0x8000 ≤ (ea (.ext 0x8000#16) blank).1.toNat ∧ (ea (.ext 0x7FFF#16) blank).1.toNat < 0x8000 := by decide

theorem witness_TransferExchange : Reg16.x ≠ Reg16.y ∧ Reg16.d ≠ Reg16.y ∧ Reg8.a ≠ Reg8.b ∧ Reg8.cc ≠ Reg8.b := by decide

/-- A push of all twelve bytes at both ends of the room it has. -/
theorem witness_Push_fits :
    PushFits .s (layout .s 0xFF#8 { blank with s := 0x8000#16 }).length { blank with s := 0x8000#16 } ∧
    PushFits .u (layout .u 0xFF#8 { blank with u := 0x000C#16 }).length { blank with u := 0x000C#16 } ∧
    PushFits .s (layout .s 0x00#8 blank).length blank :=
  ⟨.inr (by decide), .inr (by decide), .inl (by decide)⟩

/-- A push with no room: at once (S = 0 and S = 0x8001), and after one byte. -/
theorem witness_Push_faults :
    ¬ PushFits .s (layout .s 0x06#8 blank).length blank ∧
    ¬ PushFits .s (layout .s 0x06#8 { blank with s := 0x8001#16 }).length { blank with s := 0x8001#16 } ∧
    ¬ PushFits .s (layout .s 0x06#8 { blank with s := 0x0001#16 }).length { blank with s := 0x0001#16 } ∧
    ((pointer .s { blank with s := 0x8001#16 }).toNat = 0 ∨ 0x8000 < (pointer .s { blank with s := 0x8001#16 }).toNat) ∧
    ¬ ((pointer .s { blank with s := 0x0001#16 }).toNat = 0 ∨ 0x8000 < (pointer .s { blank with s := 0x0001#16 }).toNat) := by
  unfold PushFits; decide

/-- A push of A and B that goes on, on each stack. -/
theorem witness_PushPull :
    (PushFits .s (layout .s 0x06#8 { blank with s := 0x0400#16 }).length { blank with s := 0x0400#16 } ∧
      ∃ t, exec (.pshs 0x06#8) { blank with s := 0x0400#16 } = .next t) ∧
    (PushFits .u (layout .u 0x06#8 { blank with u := 0x0400#16 }).length { blank with u := 0x0400#16 } ∧
      ∃ t, exec (.pshu 0x06#8) { blank with u := 0x0400#16 } = .next t) :=
  ⟨⟨.inr (by decide), _, rfl⟩, .inr (by decide), _, rfl⟩

theorem witness_Calls :
    PushFits .s 2 { blank with s := 0x0002#16 } ∧ PushFits .s 2 { blank with s := 0x8000#16 } ∧
    ¬ PushFits .s 2 { blank with s := 0x0001#16 } ∧ ¬ PushFits .s 2 { blank with s := 0x8001#16 } := by
  unfold PushFits; decide

theorem witness_PlaceholderModes :
    (Instr.cwai 0xEF#8, Placeholder.cwai, 2) ∈ [(Instr.swi, Placeholder.swi, 1), (.swi2, .swi2, 2), (.swi3, .swi3, 2),
      (.rti, .rti, 1), (.cwai 0xEF#8, .cwai, 2), (.sync, Placeholder.sync, 1)] ∧
    blank.launch.placeholder = .fault ∧ underNop.launch.placeholder = .nop ∧
    underMc6809.launch.placeholder = .mc6809 := by decide

theorem witness_SoftwareInterrupts :
    (Instr.swi3, 0xFFF2#16, false) ∈ [(Instr.swi, 0xFFFA#16, true), (.swi2, 0xFFF4#16, false), (.swi3, 0xFFF2#16, false)] ∧
    { underMc6809 with s := 0x0400#16 }.launch.placeholder = .mc6809 ∧ PushFits .s 12 { underMc6809 with s := 0x0400#16 } ∧
    ¬ PushFits .s 12 { underMc6809 with s := 0x000B#16 } := by unfold PushFits; decide

theorem witness_InterruptReturn :
    { underMc6809 with s := 0x0400#16, mem := [(0x0400, 0x80#8)] }.launch.placeholder = .mc6809 ∧
    getFlag .e (readByte { underMc6809 with s := 0x0400#16, mem := [(0x0400, 0x80#8)] } 0x0400#16) = true ∧
    getFlag .e (readByte { underMc6809 with s := 0x0400#16 } 0x0400#16) = false := by decide

theorem witness_InterruptRoundTrip :
    underMc6809.launch.placeholder = .mc6809 ∧ PushFits .s 12 { underMc6809 with s := 0x0400#16 } ∧
    ∃ t, exec .swi { underMc6809 with s := 0x0400#16 } = .next t := ⟨rfl, .inr (by decide), _, rfl⟩

/-- A state in which a step may run: NOP at PC. -/
theorem witness_StepRunsDecoded :
    MayRun (placeBytes blank.pc [0x12#8] blank) ∧
    decode (fetchBytes (placeBytes blank.pc [0x12#8] blank)) = .ok (.nop, 1) :=
  ⟨⟨by decide, by decide, by decide, by decide⟩, rfl⟩

/-- Bytes of each kind that are no instruction, in states in which a step may run. -/
theorem witness_StepBadBytes :
    (MayRun (placeBytes blank.pc [0x01#8] blank) ∧
      decode (fetchBytes (placeBytes blank.pc [0x01#8] blank)) = .error (.unknownOpcode 0x01#8)) ∧
    (MayRun (placeBytes blank.pc [0x10#8, 0xAE#8, 0x87#8] blank) ∧
      decode (fetchBytes (placeBytes blank.pc [0x10#8, 0xAE#8, 0x87#8] blank)) = .error (.illegalPostByte 2 0x87#8)) ∧
    (MayRun (placeBytes blank.pc [0x1F#8, 0x81#8] blank) ∧
      decode (fetchBytes (placeBytes blank.pc [0x1F#8, 0x81#8] blank)) = .error (.illegalRegisterCode 1 0x81#8)) :=
  ⟨⟨⟨by decide, by decide, by decide, by decide⟩, rfl⟩, ⟨⟨by decide, by decide, by decide, by decide⟩, rfl⟩,
    ⟨by decide, by decide, by decide, by decide⟩, rfl⟩

/-- PROG_START 0x8000 and PROG_END 0x8006. -/
def bounded (pc : Addr) (count : Nat) : State :=
  { blank with pc := pc, instrCount := count
               launch := { blank.launch with progStart := 0x8000#16, progEnd := 0x8006 } }

/-- V60-11, V60-12, V60-14: each boundary test alone, at its boundary value. -/
theorem witness_BoundaryOrder :
    (bounded 0x8006#16 0).launch.progEnd ≤ (bounded 0x8006#16 0).pc.toNat ∧
    ((bounded 0x7FFF#16 0).pc.toNat < (bounded 0x7FFF#16 0).launch.progEnd ∧
      (bounded 0x7FFF#16 0).pc.toNat < (bounded 0x7FFF#16 0).launch.progStart.toNat) ∧
    ((bounded 0x8000#16 100000).pc.toNat < (bounded 0x8000#16 100000).launch.progEnd ∧
      (bounded 0x8000#16 100000).launch.progStart.toNat ≤ (bounded 0x8000#16 100000).pc.toNat ∧
      (bounded 0x8000#16 100000).launch.instrCeiling ≤ (bounded 0x8000#16 100000).instrCount) ∧
    (bounded 0x8006#16 0).runState ≠ .stopped ∧
    { blank.launch with progStart := 0x8001#16, progEnd := 0x8000 }.progEnd <
      { blank.launch with progStart := 0x8001#16, progEnd := 0x8000 }.progStart.toNat := by decide

/-- A step that faults, and one that terminates the run. -/
theorem witness_StoppedAgain :
    (∃ f, step (bounded 0x7FFF#16 0) = .fault f) ∧
    (∃ t, step (bounded 0x8006#16 0) = .next t ∧ t.runState = .stopped) := ⟨⟨_, rfl⟩, _, rfl, rfl⟩

theorem witness_InvKept : MachineInv State.reset ∧ ∃ t, step State.reset = .next t :=
  ⟨⟨by decide, by decide, by decide, by decide, by decide, by decide⟩, _, rfl⟩

theorem witness_RomUnchanged :
    0x8000 ≤ (0x8000#16 : Addr).toNat ∧ (∃ t, step State.reset = .next t) ∧
    (∃ f, step (bounded 0x7FFF#16 0) = .fault f) := ⟨by decide, ⟨_, rfl⟩, _, rfl⟩

/-- A step that runs an instruction, and one that does not. -/
theorem witness_StepFrame :
    (MayRun State.reset ∧ ∃ t, step State.reset = .next t) ∧
    (¬ MayRun (bounded 0x8006#16 0) ∧ ∃ t, step (bounded 0x8006#16 0) = .next t) :=
  ⟨⟨⟨by decide, by decide, by decide, by decide⟩, _, rfl⟩, fun h => absurd h.2.1 (by decide), _, rfl⟩

theorem witness_WhoWritesMasks :
    (∃ t, exec .mul blank = .next t) ∧ writesCCWhole .mul = false ∧ isAdd8 .mul = false ∧ isSwi .mul = false ∧
    isAdd8 (.adda (.imm 0x01#8)) = true ∧ isSwi .swi = true := by
  refine ⟨⟨_, rfl⟩, ?_⟩; decide

theorem witness_WhoWritesDPAndPC :
    (∃ t, exec .nop blank = .next t) ∧ writesDP .nop = false ∧ writesPC .nop = false ∧
    writesPC (.puls 0x80#8) = true ∧ writesPC (.puls 0x7F#8) = false ∧ writesDP (.tfr (.narrow .a .dp)) = true := by
  refine ⟨⟨_, rfl⟩, ?_⟩; decide

theorem witness_WhoWritesMemory :
    (∃ t, exec (.tst (.dir 0x00#8)) blank = .next t) ∧ writesMem (.tst (.dir 0x00#8)) = false ∧
    writesMem (.inc (.dir 0x00#8)) = true := by
  refine ⟨⟨_, rfl⟩, ?_⟩; decide

/-- A run that cannot be reset, and one that can; an image that holds two emitted bytes, with ordered bounds. -/
theorem witness_ResetCall :
    { blank with runState := .running }.runState = .running ∧ blank.runState ≠ .running ∧
    ImageHolds [(0x8000#16, 0x86#8), (0x8001#16, 0x05#8)]
      { blank.launch with memImage := [(0x8000, 0x86#8), (0x8001, 0x05#8)] }.memImage ∧
    BoundsOrdered { blank.launch with memImage := [(0x8000, 0x86#8), (0x8001, 0x05#8)] } :=
  ⟨rfl, by decide, by simp [ImageHolds, memGet], by decide, by decide⟩

/-- LDA #$05 at 0x8000, with a breakpoint there. -/
def atBreakpoint : State :=
  { placeBytes 0x8000#16 [0x86#8, 0x05#8] blank with launch := { blank.launch with breakpoints := [0x8000#16] } }

/-- One state for each turn of the loop. -/
theorem witness_RunLoop :
    ({ blank with runState := .running, stopFlag := true }.runState = .running ∧
      { blank with runState := .running, stopFlag := true }.stopFlag = true) ∧
    ({ blank with runState := .running, pauseFlag := true }.runState = .running ∧
      { blank with runState := .running, pauseFlag := true }.stopFlag = false ∧
      { blank with runState := .running, pauseFlag := true }.pauseFlag = true) ∧
    ({ atBreakpoint with runState := .running }.runState = .running ∧
      { atBreakpoint with runState := .running }.stopFlag = false ∧
      { atBreakpoint with runState := .running }.pauseFlag = false ∧
      { atBreakpoint with runState := .running }.pc ∈ atBreakpoint.launch.breakpoints ∧
      { atBreakpoint with runState := .running }.skipBreakpoint = false) ∧
    ({ atBreakpoint with runState := .running, skipBreakpoint := true }.skipBreakpoint = true ∧
      blank.pc ∉ blank.launch.breakpoints) := by decide

theorem witness_HostCalls :
    blank.runState = .idle ∧ { blank with runState := .running }.runState = .running ∧
    { blank with runState := .paused }.runState = .paused ∧ { blank with runState := .stopped }.runState = .stopped ∧
    blank.resetDue = false ∧ { blank with resetDue := true }.resetDue = true ∧ (0 : Nat) ≠ (0x7FFF#16 : Addr).toNat ∧
    (0x10000 : Nat) ≤ 0x10000 ∧ (0x10000 : Nat) < 0x10001 := by
  decide

/-- LDA #$05 and CMPX #$8024, whose operands are their last bytes. -/
theorem witness_ImmediateOperands :
    (decode [0x86#8, 0x05#8] = .ok (.lda (.imm 0x05#8), 2) ∧ immediate8 (.lda (.imm 0x05#8)) = some 0x05#8) ∧
    (decode [0x8C#8, 0x80#8, 0x24#8] = .ok (.cmpx (.imm 0x8024#16), 3) ∧
      immediate16 (.cmpx (.imm 0x8024#16)) = some 0x8024#16) := ⟨⟨rfl, rfl⟩, rfl, rfl⟩

/-! ## The controller (95_test_vectors, section 2.11) -/

/-- V70-05, V70-08: at a breakpoint the loop pauses and changes nothing; a manual step ignores it. -/
theorem test_breakpoint :
    seen (loopTurn { atBreakpoint with runState := .running }) (fun t => (t.runState, t.instrCount, t.pc)) =
      some (.paused, 0, 0x8000#16) ∧
    seen (hostCall .step { atBreakpoint with runState := .paused }) (fun t => (t.runState, t.instrCount, t.a)) =
      some (.paused, 1, 0x05#8) := by decide

/-- V70-06, V70-07: after `resume()` the first turn meets the breakpoint again unless RESUME_SKIPS_BREAKPOINT. -/
theorem test_resume :
    seen (andThen (hostCall .resume { atBreakpoint with runState := .paused }) loopTurn)
      (fun t => (t.runState, t.instrCount)) = some (.paused, 0) ∧
    seen (andThen (hostCall .resume { atBreakpoint with
        runState := .paused, launch := { atBreakpoint.launch with resumeSkips := true } }) loopTurn)
      (fun t => (t.runState, t.instrCount)) = some (.running, 1) := by decide

/-- V70-01, S7: the loader writes ROM addresses too, and its bytes are what reset restores. -/
theorem test_reset_restores_image :
    seen (andThen (hostCall (.loadByte 0x8100#16 0x55#8) blank) fun t =>
        hostCall .reset { t with mem := [], a := 0x08#8, instrCount := 3, runState := .stopped })
      (fun u => (readByte u 0x8100#16, u.a, u.instrCount, u.pc, u.runState)) =
      some (0x55#8, 0x00#8, 0, 0x0000#16, .idle) := by decide

/-- R447: after a load a run begins only after a reset, from Idle as from Stopped. -/
theorem test_load_before_reset :
    andThen (hostCall (.loadByte 0x8000#16 0x12#8) State.reset) (hostCall .run) = .refused .resetRequired ∧
    andThen (hostCall (.setBounds 0x9000#16 0x9001 1) State.reset) (hostCall .step) = .refused .resetRequired ∧
    seen (andThen (hostCall (.setBounds 0x9000#16 0x9001 1) { State.reset with runState := .stopped }) fun t =>
        andThen (hostCall .reset t) (hostCall .run)) (fun u => (u.pc, u.runState)) = some (0x9000#16, .running) ∧
    hostCall (.setBounds 0x9000#16 0x10001 1) State.reset = .refused (.badProgEnd 0x10001) :=
  ⟨rfl, rfl, rfl, rfl⟩

/-- V60-10, V60-13: termination is tested first and reports PC, count and END line. -/
theorem test_terminated :
    seen (step (bounded 0x8006#16 3)) (fun t => (t.runState, t.report, t.pc)) =
      some (.stopped, some (.terminated 0x8006#16 3 0), 0x8006#16) := by decide

/-- P1: its first instruction as a table row placed at PC after reset, and rows as the table numbers them. -/
theorem test_withFetchWord :
    seen (step (State.reset.withFetchWord 16 0x8605)) (fun t => (t.a, t.pc, t.instrCount)) =
      some (0x05#8, 0x8002#16, 1) ∧
    decodeTableWord 16 0x9700 = some (.sta (.dir 0x00#8)) ∧
    decodeTableWord 8 0x86 = some (.lda (.imm 0x00#8)) ∧
    decodeTableWord 16 0x108E = some (.ldy (.imm 0x0000#16)) := by decide

end Sys2Proof.Tests
end

section
/-! The invariant of the machine and the frame of a step: every step that answers a next state stays where it is, ends the
run, or runs one instruction (spec/10_state.md R22 to R44; spec/60_exceptions.md R404, R410, R413). -/

namespace Sys2Proof.Machine

open Sys2Proof.Safety

/-! ## What a next state of a step can be -/

/-- A step that answers a next state found the machine stopped, ended the run, or ran an instruction. -/
theorem step_next_cases {st t : State} (h : step st = .next t) :
    (st.runState = .stopped ∧ t = st) ∨
    (¬ MayRun st ∧ t = terminate st) ∨
    (MayRun st ∧ ∃ n, Kept (beginInstr n st) t) := by
  by_cases hs : st.runState = .stopped
  · exact .inl ⟨hs, step_stopped_next hs h⟩
  · rcases step_cases hs with ⟨hterm, hm⟩ | ⟨⟨info, hraise⟩, -⟩ | ⟨hm, n, hk⟩
    · rw [h] at hterm
      cases hterm
      exact .inr (.inl ⟨hm, rfl⟩)
    · exact absurd (hraise.symm.trans h) (raise_ne_next info st t)
    · rw [h] at hk
      exact .inr (.inr ⟨hm, n, hk⟩)

/-- In `Stopped` no instruction may run. -/
theorem not_mayRun_of_stopped {st : State} (h : st.runState = .stopped) : ¬ MayRun st := fun hm => hm.1 h

/-! ## The invariant -/

/-- What an instruction keeps is enough for the invariant. -/
theorem machineInv_of_kept {st t : State} (h : MachineInv st) (k : Kept st t) : MachineInv t where
  mem := k.wf h.mem
  image := by rw [k.launch]; exact h.image
  bounds := by rw [k.launch]; exact h.bounds
  count := by rw [k.launch, k.instrCount]; exact h.count
  report := by rw [k.report, k.runState]; exact h.report
  touched := k.touched h.touched

/-- Counting an instruction that may run keeps the count within the ceiling, and such a state has no report yet. -/
theorem machineInv_beginInstr {st : State} (h : MachineInv st) (hm : MayRun st) (n : Nat) :
    MachineInv (beginInstr n st) where
  mem := h.mem
  image := h.image
  bounds := h.bounds
  count := by
    obtain ⟨-, -, -, hlt⟩ := hm
    exact hlt
  report hr := absurd (h.report hr) hm.1
  touched := h.touched

/-- Ending the run leaves its report in `Stopped`. -/
theorem machineInv_terminate {st : State} (h : MachineInv st) : MachineInv (terminate st) where
  mem := h.mem
  image := h.image
  bounds := h.bounds
  count := h.count
  report _ := rfl
  touched := h.touched

/-- Settles O50, by the three things a step that goes on can have done. -/
theorem invKept : Obligations.InvKept := by
  intro st t hi hstep
  rcases step_next_cases hstep with ⟨-, rfl⟩ | ⟨-, rfl⟩ | ⟨hm, n, hk⟩
  · exact hi
  · exact machineInv_terminate hi
  · exact machineInv_of_kept (machineInv_beginInstr hi hm n) hk

/-- Settles O49: each clause is a test of the reset state. -/
theorem invAtReset : Obligations.InvAtReset where
  mem := rfl
  image := rfl
  bounds := Nat.le_refl _
  count := Nat.zero_le _
  report h := absurd rfl h
  touched := rfl

/-! ## The frame of a step -/

/-- Settles O52, by the same three cases. -/
theorem stepFrame : Obligations.StepFrame := by
  intro st t hstep
  rcases step_next_cases hstep with ⟨hs, rfl⟩ | ⟨hm, rfl⟩ | ⟨hm, n, hk⟩
  · exact ⟨⟨rfl, rfl, rfl, rfl, rfl⟩, fun h => absurd h (not_mayRun_of_stopped hs), fun _ => ⟨hs, rfl⟩⟩
  · exact ⟨⟨rfl, rfl, rfl, rfl, rfl⟩, fun h => absurd h hm, fun _ => ⟨rfl, rfl⟩⟩
  · exact ⟨⟨hk.launch, hk.pauseFlag, hk.stopFlag, hk.skipBreakpoint, hk.resetDue⟩,
      fun _ => ⟨hk.instrCount, hk.report, hk.runState⟩, fun h => absurd hm h⟩

/-! ## The bytes a step runs -/

/-- An address a number of bytes on, mod 2^16. -/
theorem add_ofNat (a : Addr) (n : Nat) : a + BitVec.ofNat 16 n = BitVec.ofNat 16 (a.toNat + n) := by
  rw [BitVec.ofNat_add, BitVec.ofNat_toNat, BitVec.setWidth_eq]

/-- Byte `k` of the fetched bytes is the byte of memory `k` addresses after PC (30_encoding R81). -/
theorem byteAt_fetchBytes (st : State) {k : Nat} (hk : k < Config.maxLength) :
    byteAt (fetchBytes st) k = readByte st (BitVec.ofNat 16 (st.pc.toNat + k)) := by
  simp [byteAt, fetchBytes, hk, ← add_ofNat]

/-- The start of an instruction, with PC as a number mod 2^16 (60_exceptions R413). -/
theorem beginInstr_eq (n : Nat) (st : State) : beginInstr n st = { st with
    pc := BitVec.ofNat 16 (st.pc.toNat + n)
    instrCount := st.instrCount + 1
    runState := if st.runState = .running then .running else .paused } := by
  rw [beginInstr, add_ofNat]

/-- Settles O44: past the boundary tests a step is `runInstr`, which dispatches on what the bytes decode to. -/
theorem stepRunsDecoded : Obligations.StepRunsDecoded := by
  intro st i n hm hdec
  refine ⟨fun k hk => byteAt_fetchBytes st hk, ?_⟩
  rw [step_mayRun hm, runInstr, hdec, ← beginInstr_eq]

/-! ## D and CC -/

/-- Settles O10, by the laws of bytes as halves of a word. -/
theorem registerViews : Obligations.RegisterViews := fun st v =>
  ⟨joinBytes_toNat st.a st.b, hiByte_toNat v, loByte_toNat v, reg16_setReg16_same .d v st, rfl⟩

/-- CC as a number is its flags, each with the weight of its bit (10_state R26). -/
theorem cc_toNat : ∀ cc : Byte,
    cc.toNat = 128 * (getFlag .e cc).toNat + 64 * (getFlag .f cc).toNat + 32 * (getFlag .h cc).toNat +
      16 * (getFlag .i cc).toNat + 8 * (getFlag .n cc).toNat + 4 * (getFlag .z cc).toNat +
      2 * (getFlag .v cc).toNat + (getFlag .c cc).toNat := by decide

/-- Settles O31: ANDCC and ORCC act on CC bit by bit, and a flag is a bit. -/
theorem conditionCodes : Obligations.ConditionCodes :=
  ⟨cc_toNat, fun g fl on cc => getFlag_setFlag fl g on cc, fun ii st =>
    ⟨⟨st.cc &&& ii, rfl, fun _ => BitVec.getLsbD_and⟩, ⟨st.cc ||| ii, rfl, fun _ => BitVec.getLsbD_or⟩, rfl⟩⟩

end Sys2Proof.Machine
end

section
/-! Which instructions can change H, which E, F and I, which DP and which PC: one relation, `RegsKept`, proved shape by
shape and then of every instruction (spec/10_state.md R32 to R36; spec/46_control_transfer.md R370). -/

namespace Sys2Proof.Machine

open Sys2Proof.Safety

/-! ## Flags an ALU function keeps -/

/-- The flags that no arithmetic but an 8-bit addition writes (10_state R32 to R34). -/
abbrev maskFlags : List Flag := [.e, .f, .h, .i]

theorem keeps_of_subset {fs gs : List Flag} {cc cc' : Byte} (h : Keeps fs cc cc') (hs : gs ⊆ fs) :
    Keeps gs cc cc' := fun g hg => h g (hs hg)

theorem keeps_trans {fs : List Flag} {cc cc' cc'' : Byte} (h : Keeps fs cc cc') (k : Keeps fs cc' cc'') :
    Keeps fs cc cc'' := fun g hg => (k g hg).trans (h g hg)

theorem add8_keeps (a b : Byte) (cin : Bool) (cc : Byte) : Keeps [.e, .f, .i] cc (add8 a b cin cc).cc :=
  have ⟨_, _, h⟩ := add8_spec a b cin cc; h

theorem sub8_keeps (a b : Byte) (bin : Bool) (cc : Byte) : Keeps maskFlags cc (sub8 a b bin cc).cc :=
  have ⟨_, h⟩ := sub8_spec a b bin cc; h

theorem add16_keeps (a b : Word) (cc : Byte) : Keeps maskFlags cc (add16 a b cc).cc :=
  have ⟨_, h⟩ := add16_spec a b cc; h

theorem sub16_keeps (a b : Word) (cc : Byte) : Keeps maskFlags cc (sub16 a b cc).cc :=
  have ⟨_, h⟩ := sub16_spec a b cc; h

theorem setNZ_keeps {w : Nat} (v : BitVec w) (cc : Byte) : Keeps maskFlags cc (setNZ v cc) :=
  have ⟨_, h⟩ := setNZ_spec v cc; keeps_of_subset h (by simp)

theorem logic8_keeps (r cc : Byte) : Keeps maskFlags cc (logic8 r cc).cc :=
  have ⟨_, _, _, h⟩ := logic8_spec r cc; keeps_of_subset h (by simp)

theorem mul8_keeps (a b cc : Byte) : Keeps maskFlags cc (mul8 a b cc).cc :=
  have ⟨_, _, _, h⟩ := mul8_spec a b cc; keeps_of_subset h (by simp)

theorem daa8_keeps (a cc : Byte) : Keeps maskFlags cc (daa8 a cc).cc := by
  simp [Keeps, daa8, getFlag_setFlag, getFlag_setNZ]

theorem neg8_keeps (m cc : Byte) : Keeps maskFlags cc (neg8 m cc).cc := sub8_keeps 0 m false cc

theorem com8_keeps (m cc : Byte) : Keeps maskFlags cc (com8 m cc).cc :=
  have ⟨_, _, _, _, h⟩ := com8_spec m cc; h

theorem inc8_keeps (m cc : Byte) : Keeps maskFlags cc (inc8 m cc).cc :=
  have ⟨_, _, _, h⟩ := inc8_spec m cc; keeps_of_subset h (by simp)

theorem dec8_keeps (m cc : Byte) : Keeps maskFlags cc (dec8 m cc).cc :=
  have ⟨_, _, _, h⟩ := dec8_spec m cc; keeps_of_subset h (by simp)

theorem tst8_keeps (m cc : Byte) : Keeps maskFlags cc (tst8 m cc).cc :=
  have ⟨_, _, h⟩ := tst8_spec m cc; keeps_of_subset h (by simp)

theorem clr8_keeps (cc : Byte) : Keeps maskFlags cc (clr8 cc).cc :=
  have ⟨_, _, _, _, _, h⟩ := clr8_spec 0 cc; h

theorem asl8_keeps (m cc : Byte) : Keeps maskFlags cc (asl8 m cc).cc :=
  have ⟨_, _, _, _, h⟩ := asl8_spec m cc; h

theorem asr8_keeps (m cc : Byte) : Keeps maskFlags cc (asr8 m cc).cc :=
  have ⟨_, _, _, h⟩ := asr8_spec m cc; keeps_of_subset h (by simp)

theorem lsr8_keeps (m cc : Byte) : Keeps maskFlags cc (lsr8 m cc).cc :=
  have ⟨_, _, _, h⟩ := lsr8_spec m cc; keeps_of_subset h (by simp)

theorem rol8_keeps (m cc : Byte) : Keeps maskFlags cc (rol8 m cc).cc :=
  have ⟨_, _, _, _, h⟩ := rol8_spec m cc; h

theorem ror8_keeps (m cc : Byte) : Keeps maskFlags cc (ror8 m cc).cc :=
  have ⟨_, _, _, h⟩ := ror8_spec m cc; keeps_of_subset h (by simp)

/-! ## The registers kept -/

/-- The flags of a list are as before, DP is if `dp`, and PC is if `pc`. -/
structure RegsKept (fs : List Flag) (dp pc : Prop) (st t : State) : Prop where
  flags : Keeps fs st.cc t.cc
  dp : dp → t.dp = st.dp
  pc : pc → t.pc = st.pc

/-- H, E, F, I, DP and PC are as before. -/
abbrev Quiet (st t : State) : Prop := RegsKept maskFlags True True st t

/-- H, E, F, I and DP are as before. -/
abbrev OnlyJumps (st t : State) : Prop := RegsKept maskFlags True False st t

section Rules

variable {fs gs : List Flag} {dp pc dp' pc' : Prop} {st t u : State}

/-- Claiming less. -/
theorem RegsKept.weaken (h : RegsKept fs dp pc st t) (hf : gs ⊆ fs) (hd : dp' → dp) (hp : pc' → pc) :
    RegsKept gs dp' pc' st t :=
  ⟨keeps_of_subset h.flags hf, fun d => h.dp (hd d), fun p => h.pc (hp p)⟩

theorem RegsKept.trans (h : RegsKept fs dp pc st t) (k : RegsKept fs dp pc t u) : RegsKept fs dp pc st u :=
  ⟨keeps_trans h.flags k.flags, fun d => (k.dp d).trans (h.dp d), fun p => (k.pc p).trans (h.pc p)⟩

/-- A state with the same CC, DP and PC. -/
theorem Quiet.of_eq (hc : t.cc = st.cc) (hd : t.dp = st.dp) (hp : t.pc = st.pc) : Quiet st t :=
  ⟨fun _ _ => by rw [hc], fun _ => hd, fun _ => hp⟩

theorem Quiet.refl (st : State) : Quiet st st := Quiet.of_eq rfl rfl rfl

theorem RegsKept.setCC {v : Byte} (h : Keeps fs st.cc v) : RegsKept fs True True st (setCC v st) :=
  ⟨h, fun _ => rfl, fun _ => rfl⟩

end Rules

/-- Writing a 16-bit register writes PC only where that is the register. -/
theorem setReg16_regsKept (r : Reg16) (v : Word) (st : State) :
    RegsKept maskFlags True (r ≠ .pc) st (setReg16 r v st) :=
  ⟨fun _ _ => by rw [setReg16_cc], fun _ => setReg16_dp r v st, fun h => reg16_setReg16_other h.symm v st⟩

/-- Writing an 8-bit register writes DP only where that is the register, and the flags only where that is CC. -/
theorem setReg8_regsKept {fs : List Flag} {r : Reg8} (hf : r = .cc → fs = []) (v : Byte) (st : State) :
    RegsKept fs (r ≠ .dp) True st (setReg8 r v st) where
  flags g hg := by
    have hr : r ≠ .cc := fun h => by simp [hf h] at hg
    exact congrArg (getFlag g) (reg8_setReg8_other hr.symm v st)
  dp h := reg8_setReg8_other h.symm v st
  pc _ := setReg8_pc r v st

theorem setReg16_quiet {r : Reg16} (h : r ≠ .pc) (v : Word) (st : State) : Quiet st (setReg16 r v st) :=
  (setReg16_regsKept r v st).weaken (List.Subset.refl _) id fun _ => h

theorem setReg16_onlyJumps (r : Reg16) (v : Word) (st : State) : OnlyJumps st (setReg16 r v st) :=
  (setReg16_regsKept r v st).weaken (List.Subset.refl _) id False.elim

theorem setAcc_regsKept {r : Reg8} (h : r = .a ∨ r = .b) (fs : List Flag) (v : Byte) (st : State) :
    RegsKept fs True True st (setReg8 r v st) :=
  (setReg8_regsKept (fun e => by simp [e] at h) v st).weaken (List.Subset.refl _) (fun _ e => by simp [e] at h) id

theorem OnlyJumps.of_quiet {st t : State} (h : Quiet st t) : OnlyJumps st t :=
  h.weaken (List.Subset.refl _) id False.elim

/-! ## Operands and memory -/

theorem indexedAddr_quiet (p : Indexed) (st : State) : Quiet st (indexedAddr p st).2 :=
  Quiet.of_eq (indexedAddr_cc p st) (indexedAddr_dp p st) (indexedAddr_pc p st)

theorem ea_quiet (m : MemMode) (st : State) : Quiet st (ea m st).2 :=
  Quiet.of_eq (ea_cc m st) (ea_dp m st) (ea_pc m st)

theorem operand8_quiet (m : Src8) (st : State) : Quiet st (operand8 m st).2 :=
  Quiet.of_eq (operand8_cc m st) (operand8_dp m st) (operand8_pc m st)

theorem operand16_quiet (m : Src16) (st : State) : Quiet st (operand16 m st).2 :=
  Quiet.of_eq (operand16_cc m st) (operand16_dp m st) (operand16_pc m st)

theorem writeByte_quiet (a : Addr) (v : Byte) (st : State) : Ends (Quiet st) (writeByte a v st) := by
  unfold writeByte
  split
  · exact Ends.raise _ (Quiet.refl st)
  · exact Quiet.of_eq rfl rfl rfl

theorem writeWord_quiet (a : Addr) (v : Word) (st : State) : Ends (Quiet st) (writeWord a v st) :=
  (writeByte_quiet a (hiByte v) st).andThen (fun _ h => h) fun t h =>
    (writeByte_quiet (a + 1) (loByte v) t).mono fun _ k => h.trans k

theorem stackReg_ne_pc (k : Stack) : stackReg k ≠ .pc := by cases k <;> decide

theorem pushByte_quiet (k : Stack) (v : Byte) (st : State) : Ends (Quiet st) (pushByte k v st) := by
  have h0 := setReg16_quiet (stackReg_ne_pc k) (reg16 (stackReg k) st - 1) st
  exact ((writeByte_quiet _ v _).mono fun _ h => h0.trans h).andThen (fun _ h => h) fun t h =>
    h.trans (Quiet.of_eq rfl rfl rfl)

theorem pushBytes_quiet (k : Stack) (vs : List Byte) (st : State) : Ends (Quiet st) (pushBytes k vs st) := by
  induction vs generalizing st with
  | nil => exact Quiet.refl st
  | cons v vs ih =>
    exact (pushByte_quiet k v st).andThen (fun _ h => h) fun t h => (ih t).mono fun _ q => h.trans q

/-- A pull writes the flags only with mask bit 0, DP only with bit 3 and PC only with bit 7 (45_transfer_stack R307). -/
theorem pullMask_regsKept {fs : List Flag} (k : Stack) {mm : Byte} (hf : mm.getLsbD 0 = true → fs = [])
    (st : State) : RegsKept fs (mm.getLsbD 3 = false) (mm.getLsbD 7 = false) st (pullMask k mm st) := by
  rw [pullMask_pulled k mm st]
  refine ⟨fun g hg => ?_, fun h => if_neg (by simp only [h, Bool.false_eq_true, not_false_eq_true]), fun h =>
    if_neg (by simp only [h, Bool.false_eq_true, not_false_eq_true])⟩
  cases h0 : mm.getLsbD 0
  · simp
  · simp [hf h0] at hg

/-! ## Shape by shape -/

theorem alu8_regsKept {fs : List Flag} {r : Reg8} (hr : r = .a ∨ r = .b) {f : Byte → Byte → Byte → Alu 8}
    (hs : fs ⊆ maskFlags) (hf : ∀ a m cc, Keeps fs cc (f a m cc).cc) (m : Src8) (st : State) :
    Ends (RegsKept fs True True st) (alu8 r f m st) :=
  (((operand8_quiet m st).weaken hs id id).trans (.setCC (hf _ _ _))).trans (setAcc_regsKept hr fs _ _)

theorem alu8_quiet {r : Reg8} (hr : r = .a ∨ r = .b) {f : Byte → Byte → Byte → Alu 8}
    (hf : ∀ a m cc, Keeps maskFlags cc (f a m cc).cc) (m : Src8) (st : State) : Ends (Quiet st) (alu8 r f m st) :=
  alu8_regsKept hr (List.Subset.refl _) hf m st

theorem test8_quiet (r : Reg8) {f : Byte → Byte → Byte → Alu 8}
    (hf : ∀ a m cc, Keeps maskFlags cc (f a m cc).cc) (m : Src8) (st : State) : Ends (Quiet st) (test8 r f m st) :=
  (operand8_quiet m st).trans (.setCC (hf _ _ _))

theorem cmp16_quiet (r : Reg16) (m : Src16) (st : State) : Ends (Quiet st) (cmp16 r m st) :=
  (operand16_quiet m st).trans (.setCC (sub16_keeps _ _ _))

theorem aluD_quiet {f : Word → Word → Byte → Alu 16} (hf : ∀ a m cc, Keeps maskFlags cc (f a m cc).cc)
    (m : Src16) (st : State) : Ends (Quiet st) (aluD f m st) :=
  ((operand16_quiet m st).trans (.setCC (hf _ _ _))).trans (setReg16_quiet (by decide) _ _)

theorem unaryMem_quiet {f : Byte → Byte → Alu 8} (hf : ∀ m cc, Keeps maskFlags cc (f m cc).cc) (m : MemMode)
    (st : State) : Ends (Quiet st) (unaryMem f m st) :=
  (writeByte_quiet _ _ _).mono fun _ h => ((ea_quiet m st).trans (.setCC (hf _ _))).trans h

theorem execClr_quiet (m : MemMode) (st : State) : Ends (Quiet st) (execClr m st) :=
  (writeByte_quiet _ _ _).mono fun _ h => ((ea_quiet m st).trans (.setCC (clr8_keeps _))).trans h

theorem execTst_quiet (m : MemMode) (st : State) : Ends (Quiet st) (execTst m st) :=
  (ea_quiet m st).trans (.setCC (tst8_keeps _ _))

theorem unaryAcc_quiet {r : Reg8} (hr : r = .a ∨ r = .b) {f : Byte → Byte → Alu 8}
    (hf : ∀ m cc, Keeps maskFlags cc (f m cc).cc) (st : State) : Ends (Quiet st) (unaryAcc r f st) :=
  (RegsKept.setCC (hf _ _)).trans (setAcc_regsKept hr _ _ _)

theorem tstAcc_quiet (r : Reg8) (st : State) : Ends (Quiet st) (tstAcc r st) := RegsKept.setCC (tst8_keeps _ _)

theorem load8_quiet {r : Reg8} (hr : r = .a ∨ r = .b) (m : Src8) (st : State) : Ends (Quiet st) (load8 r m st) :=
  ((operand8_quiet m st).trans (.setCC (setNZ_keeps _ _))).trans (setAcc_regsKept hr _ _ _)

theorem load16_quiet {r : Reg16} (hr : r ≠ .pc) (m : Src16) (st : State) : Ends (Quiet st) (load16 r m st) :=
  ((operand16_quiet m st).trans (.setCC (setNZ_keeps _ _))).trans (setReg16_quiet hr _ _)

theorem store8_quiet (r : Reg8) (m : MemMode) (st : State) : Ends (Quiet st) (store8 r m st) :=
  (writeByte_quiet _ _ _).mono fun _ h => ((ea_quiet m st).trans (.setCC (setNZ_keeps _ _))).trans h

theorem store16_quiet (r : Reg16) (m : MemMode) (st : State) : Ends (Quiet st) (store16 r m st) :=
  (writeWord_quiet _ _ _).mono fun _ h => ((ea_quiet m st).trans (.setCC (setNZ_keeps _ _))).trans h

theorem leaFlags_quiet {r : Reg16} (hr : r ≠ .pc) (p : Indexed) (st : State) : Ends (Quiet st) (leaFlags r p st) :=
  ((indexedAddr_quiet p st).trans (.setCC (setNZ_keeps _ _))).trans (setReg16_quiet hr _ _)

theorem leaPlain_quiet {r : Reg16} (hr : r ≠ .pc) (p : Indexed) (st : State) : Ends (Quiet st) (leaPlain r p st) :=
  (indexedAddr_quiet p st).trans (setReg16_quiet hr _ _)

theorem execDaa_quiet (st : State) : Ends (Quiet st) (execDaa st) :=
  (RegsKept.setCC (daa8_keeps _ _)).trans (setAcc_regsKept (.inl rfl) _ _ _)

theorem execMul_quiet (st : State) : Ends (Quiet st) (execMul st) :=
  (RegsKept.setCC (mul8_keeps _ _ _)).trans (setReg16_quiet (by decide) _ _)

theorem execSex_quiet (st : State) : Ends (Quiet st) (execSex st) :=
  (RegsKept.setCC (setNZ_keeps _ _)).trans (setReg16_quiet (by decide) _ _)

theorem branch_onlyJumps (k : Cond) (off : Word) (st : State) : Ends (OnlyJumps st) (branch k off st) := by
  unfold branch
  split
  · exact setReg16_onlyJumps .pc _ st
  · exact OnlyJumps.of_quiet (Quiet.refl st)

theorem callTo_onlyJumps (a : Addr) (st : State) : Ends (OnlyJumps st) (callTo a st) :=
  (pushBytes_quiet _ _ _).andThen (fun _ => OnlyJumps.of_quiet) fun _ h =>
    (OnlyJumps.of_quiet h).trans (setReg16_onlyJumps _ _ _)

theorem execJsr_onlyJumps (m : MemMode) (st : State) : Ends (OnlyJumps st) (execJsr m st) :=
  (callTo_onlyJumps _ _).mono fun _ h => (OnlyJumps.of_quiet (ea_quiet m st)).trans h

theorem execJmp_onlyJumps (m : MemMode) (st : State) : Ends (OnlyJumps st) (execJmp m st) :=
  (OnlyJumps.of_quiet (ea_quiet m st)).trans (setReg16_onlyJumps _ _ _)

theorem execRts_onlyJumps (st : State) : Ends (OnlyJumps st) (execRts st) :=
  (setReg16_onlyJumps .s _ st).trans (setReg16_onlyJumps .pc _ _)

/-- A placeholder whose `mc6809` meaning ends in a fault. -/
theorem placeholder_raise_quiet (which : Placeholder) (n : Word) (info : FaultInfo) (st : State) :
    Ends (Quiet st) (placeholder which n (raise info) st) := by
  unfold placeholder
  split
  · exact Ends.raise _ (Quiet.refl st)
  · exact Quiet.refl st
  · exact Ends.raise _ (Quiet.refl st)

/-- What an exception entry keeps: H and DP, whatever it does to E, F and I (47_system_placeholders R381 to R383). -/
theorem softInterrupt_regsKept {vector : Addr} {mask : Byte → Byte}
    (hm : ∀ cc, getFlag .h (mask cc) = getFlag .h cc) (st : State) : Ends (RegsKept [.h] True False st) (softInterrupt vector mask st) := by
  have hcc : RegsKept [.h] True False st (setCC (setFlag .e true st.cc) st) :=
    (RegsKept.setCC (by simp [Keeps])).weaken (List.Subset.refl _) id False.elim
  have hpush : Ends (RegsKept [.h] True False st) (pushMask .s 0xFF#8 (setCC (setFlag .e true st.cc) st)) :=
    (pushBytes_quiet _ _ _).mono fun _ h => hcc.trans (h.weaken (by simp) id False.elim)
  refine hpush.andThen (fun _ h => h) fun t h => ?_
  have hmask : RegsKept [.h] True False t (setCC (mask t.cc) t) :=
    (RegsKept.setCC (by simp [Keeps, hm])).weaken (List.Subset.refl _) id False.elim
  exact (h.trans hmask).trans ((setReg16_onlyJumps .pc _ _).weaken (by simp) id id)

/-- A software interrupt writes E, F and I under `mc6809` only. -/
theorem swi_regsKept (which : Placeholder) (n : Word) {vector : Addr} {mask : Byte → Byte}
    (hm : ∀ cc, getFlag .h (mask cc) = getFlag .h cc) (st : State) :
    Ends (RegsKept (if st.launch.placeholder = .mc6809 then [.h] else maskFlags) True False st)
      (placeholder which n (softInterrupt vector mask) st) := by
  unfold placeholder
  cases hp : st.launch.placeholder
  · exact Ends.raise _ (OnlyJumps.of_quiet (Quiet.refl st))
  · exact OnlyJumps.of_quiet (Quiet.refl st)
  · exact softInterrupt_regsKept hm st

/-! ## Every instruction -/

/-- Of H, E, F and I, the flags that an instruction keeps from a state (10_state R32 to R34). -/
def keptFlags (i : Instr) (st : State) : List Flag :=
  if writesCCWhole i then [] else
  (if isAdd8 i then [] else [.h]) ++ (if isSwi i ∧ st.launch.placeholder = .mc6809 then [] else [.e, .f, .i])

theorem keptFlags_subset_maskFlags (i : Instr) (st : State) : keptFlags i st ⊆ maskFlags := by
  unfold keptFlags
  split
  · simp
  · split <;> split <;> simp

/-- What an instruction keeps from a state: the flags of `keptFlags`, and DP and PC unless it writes them. -/
abbrev InstrKeeps (i : Instr) (st : State) : State → Prop :=
  RegsKept (keptFlags i st) (writesDP i = false) (writesPC i = false) st

theorem instrKeeps_of_quiet {i : Instr} {st : State} {r : Result} (h : Ends (Quiet st) r) :
    Ends (InstrKeeps i st) r :=
  h.mono fun _ q => q.weaken (keptFlags_subset_maskFlags i st) (fun _ => trivial) fun _ => trivial

theorem instrKeeps_of_onlyJumps {i : Instr} {st : State} {r : Result} (hp : writesPC i = true)
    (h : Ends (OnlyJumps st) r) : Ends (InstrKeeps i st) r :=
  h.mono fun _ q => q.weaken (keptFlags_subset_maskFlags i st) (fun _ => trivial) fun e => by simp [hp] at e

/-- An instruction that writes CC whole has no flag to keep. -/
theorem keptFlags_of_writesCCWhole {i : Instr} {st : State} (h : writesCCWhole i = true) : keptFlags i st = [] := by
  simp [keptFlags, h]

/-- ADD and ADC on an accumulator: everything but H. -/
theorem instrKeeps_of_add {i : Instr} {st : State} {r : Result} (ha : isAdd8 i = true)
    (h : Ends (RegsKept [.e, .f, .i] True True st) r) : Ends (InstrKeeps i st) r := by
  refine h.mono fun _ q => q.weaken ?_ (fun _ => trivial) fun _ => trivial
  simp only [keptFlags, ha, if_true, List.nil_append]
  split
  · simp
  · split <;> simp

/-- ANDCC and ORCC: everything but CC. -/
theorem instrKeeps_setCC {i : Instr} {st : State} (hi : writesCCWhole i = true) (v : Byte) :
    InstrKeeps i st (setCC v st) := by
  rw [InstrKeeps, keptFlags_of_writesCCWhole hi]
  exact ⟨nofun, fun _ => rfl, fun _ => rfl⟩

theorem instrKeeps_of_swi {i : Instr} {st : State} {r : Result} (hi : isSwi i = true) (hp : writesPC i = true)
    (h : Ends (RegsKept (if st.launch.placeholder = .mc6809 then [.h] else maskFlags) True False st) r) :
    Ends (InstrKeeps i st) r := by
  refine h.mono fun _ q => q.weaken ?_ (fun _ => trivial) fun e => by simp [hp] at e
  split
  · next hb =>
    unfold keptFlags
    split
    · simp
    · split <;> simp [hi, hb]
  · exact keptFlags_subset_maskFlags i st

/-- RTI may write CC, DP and PC (47_system_placeholders R384), so that nothing is left to keep. -/
theorem instrKeeps_rti (st : State) : Ends (InstrKeeps .rti st) (execRti st) :=
  (exec_kept .rti st).mono fun _ _ => ⟨nofun, nofun, nofun⟩

theorem instrKeeps_pull {i : Instr} (k : Stack) {mm : Byte} (hc : mm.getLsbD 0 = true → writesCCWhole i = true)
    (hd : writesDP i = mm.getLsbD 3) (hp : writesPC i = mm.getLsbD 7) (st : State) :
    InstrKeeps i st (pullMask k mm st) :=
  (pullMask_regsKept k (fun h => keptFlags_of_writesCCWhole (hc h)) st).weaken (List.Subset.refl _)
    (fun h => hd ▸ h) fun h => hp ▸ h

/-! ### TFR and EXG: the destinations decide (10_state R33, R36; 46_control_transfer R370) -/

theorem writesPC_tfr_wide {r1 r2 : Reg16} (h : writesPC (.tfr (.wide r1 r2)) = false) : r2 ≠ .pc := by
  rintro rfl; cases h

theorem writesPC_exg_wide {r1 r2 : Reg16} (h : writesPC (.exg (.wide r1 r2)) = false) : r1 ≠ .pc ∧ r2 ≠ .pc := by
  constructor
  · rintro rfl; cases r2 <;> cases h
  · rintro rfl; cases h

theorem writesDP_tfr_narrow {r1 r2 : Reg8} (h : writesDP (.tfr (.narrow r1 r2)) = false) : r2 ≠ .dp := by
  rintro rfl; cases h

theorem writesDP_exg_narrow {r1 r2 : Reg8} (h : writesDP (.exg (.narrow r1 r2)) = false) : r1 ≠ .dp ∧ r2 ≠ .dp := by
  constructor
  · rintro rfl; cases r2 <;> cases h
  · rintro rfl; cases h

theorem writesCCWhole_exg_first (r : Reg8) : writesCCWhole (.exg (.narrow .cc r)) = true := by cases r <;> rfl

theorem instrKeeps_tfr (p : RegPair) (st : State) : Ends (InstrKeeps (.tfr p) st) (execTfr p st) := by
  cases p with
  | wide r1 r2 =>
    exact (setReg16_regsKept r2 _ st).weaken (keptFlags_subset_maskFlags _ st) (fun _ => trivial) writesPC_tfr_wide
  | narrow r1 r2 =>
    exact (setReg8_regsKept (fun e => keptFlags_of_writesCCWhole (by rw [e]; rfl)) _ st).weaken
      (List.Subset.refl _) writesDP_tfr_narrow fun _ => trivial

theorem instrKeeps_exg (p : RegPair) (st : State) : Ends (InstrKeeps (.exg p) st) (execExg p st) := by
  cases p with
  | wide r1 r2 =>
    have hf := keptFlags_subset_maskFlags (.exg (.wide r1 r2)) st
    exact ((setReg16_regsKept r1 _ st).weaken hf (fun _ => trivial) fun h => (writesPC_exg_wide h).1).trans
      ((setReg16_regsKept r2 _ _).weaken hf (fun _ => trivial) fun h => (writesPC_exg_wide h).2)
  | narrow r1 r2 =>
    have h1 : r1 = .cc → keptFlags (.exg (.narrow r1 r2)) st = [] := fun e =>
      keptFlags_of_writesCCWhole (by rw [e]; exact writesCCWhole_exg_first r2)
    have h2 : r2 = .cc → keptFlags (.exg (.narrow r1 r2)) st = [] := fun e =>
      keptFlags_of_writesCCWhole (by rw [e]; rfl)
    exact ((setReg8_regsKept h1 _ st).weaken (List.Subset.refl _) (fun h => (writesDP_exg_narrow h).1)
      fun _ => trivial).trans ((setReg8_regsKept h2 _ _).weaken (List.Subset.refl _)
        (fun h => (writesDP_exg_narrow h).2) fun _ => trivial)

/-! ### The arms of `exec` -/

/-- Whatever an instruction does, it keeps the flags of `keptFlags`, and DP and PC unless it is one that writes them: each
arm by its shape. -/
theorem exec_instrKeeps (i : Instr) (st : State) : Ends (InstrKeeps i st) (exec i st) := by
  cases i
  case prefixPage2 | prefixPage3 => exact instrKeeps_of_quiet (Ends.raise _ (Quiet.refl st))
  case neg => exact instrKeeps_of_quiet (unaryMem_quiet neg8_keeps _ st)
  case com => exact instrKeeps_of_quiet (unaryMem_quiet com8_keeps _ st)
  case lsr => exact instrKeeps_of_quiet (unaryMem_quiet lsr8_keeps _ st)
  case ror => exact instrKeeps_of_quiet (unaryMem_quiet ror8_keeps _ st)
  case asr => exact instrKeeps_of_quiet (unaryMem_quiet asr8_keeps _ st)
  case asl => exact instrKeeps_of_quiet (unaryMem_quiet asl8_keeps _ st)
  case rol => exact instrKeeps_of_quiet (unaryMem_quiet rol8_keeps _ st)
  case dec => exact instrKeeps_of_quiet (unaryMem_quiet dec8_keeps _ st)
  case inc => exact instrKeeps_of_quiet (unaryMem_quiet inc8_keeps _ st)
  case tst => exact instrKeeps_of_quiet (execTst_quiet _ st)
  case clr => exact instrKeeps_of_quiet (execClr_quiet _ st)
  case nop => exact instrKeeps_of_quiet (Quiet.refl st)
  case sync | cwai => exact instrKeeps_of_quiet (placeholder_raise_quiet _ _ _ st)
  case daa => exact instrKeeps_of_quiet (execDaa_quiet st)
  case mul => exact instrKeeps_of_quiet (execMul_quiet st)
  case sex => exact instrKeeps_of_quiet (execSex_quiet st)
  case abx => exact instrKeeps_of_quiet (setReg16_quiet (r := .x) (by decide) _ st)
  case leax | leay => exact instrKeeps_of_quiet (leaFlags_quiet (by decide) _ st)
  case leas | leau => exact instrKeeps_of_quiet (leaPlain_quiet (by decide) _ st)
  case pshs | pshu => exact instrKeeps_of_quiet (pushBytes_quiet _ _ st)
  case nega => exact instrKeeps_of_quiet (unaryAcc_quiet (.inl rfl) neg8_keeps st)
  case coma => exact instrKeeps_of_quiet (unaryAcc_quiet (.inl rfl) com8_keeps st)
  case lsra => exact instrKeeps_of_quiet (unaryAcc_quiet (.inl rfl) lsr8_keeps st)
  case rora => exact instrKeeps_of_quiet (unaryAcc_quiet (.inl rfl) ror8_keeps st)
  case asra => exact instrKeeps_of_quiet (unaryAcc_quiet (.inl rfl) asr8_keeps st)
  case asla => exact instrKeeps_of_quiet (unaryAcc_quiet (.inl rfl) asl8_keeps st)
  case rola => exact instrKeeps_of_quiet (unaryAcc_quiet (.inl rfl) rol8_keeps st)
  case deca => exact instrKeeps_of_quiet (unaryAcc_quiet (.inl rfl) dec8_keeps st)
  case inca => exact instrKeeps_of_quiet (unaryAcc_quiet (.inl rfl) inc8_keeps st)
  case tsta | tstb => exact instrKeeps_of_quiet (tstAcc_quiet _ st)
  case clra => exact instrKeeps_of_quiet (unaryAcc_quiet (.inl rfl) (fun _ => clr8_keeps) st)
  case suba => exact instrKeeps_of_quiet (alu8_quiet (.inl rfl) (fun a m => sub8_keeps a m false) _ st)
  case cmpa => exact instrKeeps_of_quiet (test8_quiet .a (fun a m => sub8_keeps a m false) _ st)
  case sbca =>
    exact instrKeeps_of_quiet (alu8_quiet (.inl rfl) (fun a m cc => sub8_keeps a m (getFlag .c cc) cc) _ st)
  case anda => exact instrKeeps_of_quiet (alu8_quiet (.inl rfl) (fun a m => logic8_keeps (a &&& m)) _ st)
  case eora => exact instrKeeps_of_quiet (alu8_quiet (.inl rfl) (fun a m => logic8_keeps (a ^^^ m)) _ st)
  case ora => exact instrKeeps_of_quiet (alu8_quiet (.inl rfl) (fun a m => logic8_keeps (a ||| m)) _ st)
  case bita => exact instrKeeps_of_quiet (test8_quiet .a (fun a m => logic8_keeps (a &&& m)) _ st)
  case lda => exact instrKeeps_of_quiet (load8_quiet (.inl rfl) _ st)
  case sta | stb => exact instrKeeps_of_quiet (store8_quiet _ _ st)
  case adda => exact instrKeeps_of_add rfl (alu8_regsKept (.inl rfl) (by simp) (fun a m => add8_keeps a m false) _ st)
  case adca =>
    exact instrKeeps_of_add rfl
      (alu8_regsKept (.inl rfl) (by simp) (fun a m cc => add8_keeps a m (getFlag .c cc) cc) _ st)
  case negb => exact instrKeeps_of_quiet (unaryAcc_quiet (.inr rfl) neg8_keeps st)
  case comb => exact instrKeeps_of_quiet (unaryAcc_quiet (.inr rfl) com8_keeps st)
  case lsrb => exact instrKeeps_of_quiet (unaryAcc_quiet (.inr rfl) lsr8_keeps st)
  case rorb => exact instrKeeps_of_quiet (unaryAcc_quiet (.inr rfl) ror8_keeps st)
  case asrb => exact instrKeeps_of_quiet (unaryAcc_quiet (.inr rfl) asr8_keeps st)
  case aslb => exact instrKeeps_of_quiet (unaryAcc_quiet (.inr rfl) asl8_keeps st)
  case rolb => exact instrKeeps_of_quiet (unaryAcc_quiet (.inr rfl) rol8_keeps st)
  case decb => exact instrKeeps_of_quiet (unaryAcc_quiet (.inr rfl) dec8_keeps st)
  case incb => exact instrKeeps_of_quiet (unaryAcc_quiet (.inr rfl) inc8_keeps st)
  case clrb => exact instrKeeps_of_quiet (unaryAcc_quiet (.inr rfl) (fun _ => clr8_keeps) st)
  case subb => exact instrKeeps_of_quiet (alu8_quiet (.inr rfl) (fun a m => sub8_keeps a m false) _ st)
  case cmpb => exact instrKeeps_of_quiet (test8_quiet .b (fun a m => sub8_keeps a m false) _ st)
  case sbcb =>
    exact instrKeeps_of_quiet (alu8_quiet (.inr rfl) (fun a m cc => sub8_keeps a m (getFlag .c cc) cc) _ st)
  case andb => exact instrKeeps_of_quiet (alu8_quiet (.inr rfl) (fun a m => logic8_keeps (a &&& m)) _ st)
  case eorb => exact instrKeeps_of_quiet (alu8_quiet (.inr rfl) (fun a m => logic8_keeps (a ^^^ m)) _ st)
  case orb => exact instrKeeps_of_quiet (alu8_quiet (.inr rfl) (fun a m => logic8_keeps (a ||| m)) _ st)
  case bitb => exact instrKeeps_of_quiet (test8_quiet .b (fun a m => logic8_keeps (a &&& m)) _ st)
  case ldb => exact instrKeeps_of_quiet (load8_quiet (.inr rfl) _ st)
  case addb => exact instrKeeps_of_add rfl (alu8_regsKept (.inr rfl) (by simp) (fun a m => add8_keeps a m false) _ st)
  case adcb =>
    exact instrKeeps_of_add rfl
      (alu8_regsKept (.inr rfl) (by simp) (fun a m cc => add8_keeps a m (getFlag .c cc) cc) _ st)
  case addd => exact instrKeeps_of_quiet (aluD_quiet add16_keeps _ st)
  case subd => exact instrKeeps_of_quiet (aluD_quiet sub16_keeps _ st)
  case cmpd | cmpx | cmpy | cmpu | cmps => exact instrKeeps_of_quiet (cmp16_quiet _ _ st)
  case ldd | ldx | ldy | ldu | lds => exact instrKeeps_of_quiet (load16_quiet (by decide) _ st)
  case std | stx | sty | stu | sts => exact instrKeeps_of_quiet (store16_quiet _ _ st)
  case bra | lbra => exact instrKeeps_of_onlyJumps rfl (branch_onlyJumps .ra _ st)
  case brn o => exact instrKeeps_of_onlyJumps rfl (branch_onlyJumps .rn (sext8 o) st)
  case lbrn o => exact instrKeeps_of_onlyJumps rfl (branch_onlyJumps .rn o st)
  case bhi | lbhi => exact instrKeeps_of_onlyJumps rfl (branch_onlyJumps .hi _ st)
  case bls | lbls => exact instrKeeps_of_onlyJumps rfl (branch_onlyJumps .ls _ st)
  case bcc | lbcc => exact instrKeeps_of_onlyJumps rfl (branch_onlyJumps .cc _ st)
  case bcs | lbcs => exact instrKeeps_of_onlyJumps rfl (branch_onlyJumps .cs _ st)
  case bne | lbne => exact instrKeeps_of_onlyJumps rfl (branch_onlyJumps .ne _ st)
  case beq | lbeq => exact instrKeeps_of_onlyJumps rfl (branch_onlyJumps .eq _ st)
  case bvc | lbvc => exact instrKeeps_of_onlyJumps rfl (branch_onlyJumps .vc _ st)
  case bvs | lbvs => exact instrKeeps_of_onlyJumps rfl (branch_onlyJumps .vs _ st)
  case bpl | lbpl => exact instrKeeps_of_onlyJumps rfl (branch_onlyJumps .pl _ st)
  case bmi | lbmi => exact instrKeeps_of_onlyJumps rfl (branch_onlyJumps .mi _ st)
  case bge | lbge => exact instrKeeps_of_onlyJumps rfl (branch_onlyJumps .ge _ st)
  case blt | lblt => exact instrKeeps_of_onlyJumps rfl (branch_onlyJumps .lt _ st)
  case bgt | lbgt => exact instrKeeps_of_onlyJumps rfl (branch_onlyJumps .gt _ st)
  case ble | lble => exact instrKeeps_of_onlyJumps rfl (branch_onlyJumps .le _ st)
  case bsr | lbsr => exact instrKeeps_of_onlyJumps rfl (callTo_onlyJumps _ st)
  case jsr => exact instrKeeps_of_onlyJumps rfl (execJsr_onlyJumps _ st)
  case jmp => exact instrKeeps_of_onlyJumps rfl (execJmp_onlyJumps _ st)
  case rts => exact instrKeeps_of_onlyJumps rfl (execRts_onlyJumps st)
  case orcc | andcc => exact instrKeeps_setCC rfl _
  case tfr => exact instrKeeps_tfr _ st
  case exg => exact instrKeeps_exg _ st
  case puls => exact instrKeeps_pull .s id rfl rfl st
  case pulu => exact instrKeeps_pull .u id rfl rfl st
  case rti => exact instrKeeps_rti st
  case swi | swi2 | swi3 => exact instrKeeps_of_swi rfl rfl (swi_regsKept _ _ (by simp) st)

/-- Settles O53: a flag that the statement names is one of `keptFlags`. -/
theorem whoWritesMasks : Obligations.WhoWritesMasks := by
  intro i st t hexec hcc
  have hk := exec_instrKeeps i st
  rw [hexec] at hk
  refine ⟨fun ha => hk.flags .h ?_, fun hs => ?_⟩
  · simp [keptFlags, hcc, ha]
  · have hmem : [.e, .f, .i] ⊆ keptFlags i st := by simp [keptFlags, hcc, hs]
    have hefi := keeps_of_subset hk.flags hmem
    exact ⟨hefi .e (by simp), hefi .f (by simp), hefi .i (by simp)⟩

/-- Settles O54: both clauses are fields of what an instruction keeps. -/
theorem whoWritesDPAndPC : Obligations.WhoWritesDPAndPC := by
  intro i st t hexec
  have hk := exec_instrKeeps i st
  rw [hexec] at hk
  exact ⟨hk.dp, hk.pc⟩

end Sys2Proof.Machine
end

section
/-! Memory: the run-time byte and word write, ROM along every step, and the instructions that leave memory and the
stack-touched set alone (spec/20_memory.md R51 to R61, R69; spec/60_exceptions.md R402). -/

namespace Sys2Proof.Machine

open Sys2Proof.Safety

/-! ## ROM along a step -/

/-- Every byte from 0x8000 on reads as before (20_memory R51). -/
def RomKept (st t : State) : Prop := ∀ a : Addr, 0x8000 ≤ a.toNat → readByte t a = readByte st a

/-- A state with the same memory. -/
theorem RomKept.of_mem_eq {st t : State} (h : t.mem = st.mem) : RomKept st t := fun a _ => readByte_congr h a

/-- A stopped machine that reports a fault is already as that fault left it. -/
theorem stopWith_of_reported {st : State} {info : FaultInfo} (hs : st.runState = .stopped)
    (hr : st.report = some (.fault info)) : stopWith (.fault info) st = st := by
  rw [stopWith, ← hs, ← hr]

/-- What is reported again comes with the state as it is (60_exceptions R404, R410). -/
theorem reportAgain_ends {P : State → Prop} {st : State} (hs : st.runState = .stopped) (h : P st) :
    Ends P (reportAgain st) := by
  unfold reportAgain
  split
  · next info hr => exact ⟨info, st, by rw [stopWith_of_reported hs hr], h⟩
  · exact h
  · exact h

/-- A step keeps ROM: a stopped machine and a boundary test change no memory, and an instruction changes RAM only. -/
theorem step_romKept (st : State) : Ends (RomKept st) (step st) := by
  by_cases hs : st.runState = .stopped
  · rw [step_stopped hs]
    exact reportAgain_ends hs (RomKept.of_mem_eq rfl)
  · rcases step_cases hs with ⟨hterm, -⟩ | ⟨⟨info, hraise⟩, -⟩ | ⟨-, n, hrun⟩
    · rw [hterm]
      exact RomKept.of_mem_eq rfl
    · rw [hraise]
      exact Ends.raise info (RomKept.of_mem_eq rfl)
    · exact hrun.mono fun _ k => k.rom

/-- Settles O51: the state a fault leaves differs from the one it was raised in by the controller's fields only. -/
theorem romUnchanged : Obligations.RomUnchanged := by
  intro st a ha
  have hrom := step_romKept st
  refine ⟨fun t ht => ?_, fun f hf => ?_⟩
  · rw [ht] at hrom
    exact hrom a ha
  · rw [hf] at hrom
    obtain ⟨info, t, rfl, hkept⟩ := hrom
    rw [faultLeft_faultOf]
    exact hkept a ha

/-! ## Writes that store -/

theorem readByte_storeByte_same (a : Addr) (v : Byte) (st : State) : readByte (storeByte a v st) a = v := by
  rw [readByte_storeByte, if_pos rfl]

theorem readByte_storeByte_other {a b : Addr} (h : b ≠ a) (v : Byte) (st : State) :
    readByte (storeByte a v st) b = readByte st b := by
  rw [readByte_storeByte, if_neg h]

theorem memKept_storeByte (a : Addr) (v : Byte) (st : State) : MemKept [a] st (storeByte a v st) :=
  fun _ hb => readByte_storeByte_other (List.ne_of_not_mem_cons hb) v st

/-- Two updates change no byte but those that one of them may change. -/
theorem memKept_trans {as bs : List Addr} {st t u : State} (h : MemKept as st t) (k : MemKept bs t u) :
    MemKept (as ++ bs) st u := fun a ha =>
  (k a fun hb => ha (List.mem_append_right as hb)).trans (h a fun hb => ha (List.mem_append_left bs hb))

/-- Settles O8: each branch is a law of `writeByte`, and the stored state by the laws of `storeByte`. -/
theorem byteWrite : Obligations.ByteWrite := fun a v st =>
  ⟨fun h =>
    ⟨storeByte a v st, writeByte_ram h v st, rfl, readByte_storeByte_same a v st, memKept_storeByte a v st⟩,
    fun h => writeByte_rom h v st⟩

/-! ## Words -/

/-- A word read is big-endian (20_memory R53, R58). -/
theorem readWord_toNat (st : State) (a : Addr) :
    (readWord st a).toNat = 256 * (readByte st a).toNat + (readByte st (BitVec.ofNat 16 (a.toNat + 1))).toNat := by
  rw [readWord, joinBytes_toNat, ← add_ofNat a 1]
  rfl

/-- An address and the one after it differ, at the top of memory too. -/
theorem ne_add_one (a : Addr) : a ≠ a + 1 := by
  intro h
  have hlt := a.isLt
  have hnat := congrArg BitVec.toNat h
  rw [BitVec.toNat_add, show (1 : Addr).toNat = 1 from rfl] at hnat
  omega

/-- The state after a word write in RAM: high byte, then low byte (20_memory R56). -/
def storeWord (a : Addr) (v : Word) (st : State) : State := storeByte (a + 1) (loByte v) (storeByte a (hiByte v) st)

theorem readByte_storeWord_high (a : Addr) (v : Word) (st : State) : readByte (storeWord a v st) a = hiByte v := by
  rw [storeWord, readByte_storeByte_other (ne_add_one a), readByte_storeByte_same]

theorem readByte_storeWord_low (a : Addr) (v : Word) (st : State) :
    readByte (storeWord a v st) (a + 1) = loByte v := readByte_storeByte_same _ _ _

theorem readWord_storeWord (a : Addr) (v : Word) (st : State) : readWord (storeWord a v st) a = v := by
  rw [readWord, readByte_storeWord_high, readByte_storeWord_low, joinBytes_hi_lo]

theorem memKept_storeWord (a : Addr) (v : Word) (st : State) : MemKept [a, a + 1] st (storeWord a v st) :=
  memKept_trans (memKept_storeByte a _ st) (memKept_storeByte (a + 1) _ _)

/-- Settles O9: a word write below 0x7FFF is two stores, and the halves of a word make it up again. -/
theorem wordAccess : Obligations.WordAccess := fun a v st =>
  ⟨readWord_toNat st a, fun h =>
    ⟨storeWord a v st, writeWord_ram h v st, rfl, readWord_storeWord a v st,
      by rw [readByte_storeWord_high, hiByte_toNat], by rw [readByte_storeWord_low, loByte_toNat],
      memKept_storeWord a v st⟩⟩

/-! ## Instructions that leave memory alone -/

/-- Memory and the stack-touched set are as before (20_memory R61, R69). -/
structure MemoryAlone (st t : State) : Prop where
  mem : t.mem = st.mem
  touched : t.stackTouched = st.stackTouched

namespace MemoryAlone

theorem refl (st : State) : MemoryAlone st st := ⟨rfl, rfl⟩

theorem trans {st t u : State} (h : MemoryAlone st t) (k : MemoryAlone t u) : MemoryAlone st u :=
  ⟨k.mem.trans h.mem, k.touched.trans h.touched⟩

theorem setCC {st t : State} (h : MemoryAlone st t) (v : Byte) : MemoryAlone st (setCC v t) := ⟨h.mem, h.touched⟩

theorem setReg8 {st t : State} (h : MemoryAlone st t) (r : Reg8) (v : Byte) : MemoryAlone st (setReg8 r v t) :=
  ⟨(setReg8_mem r v t).trans h.mem, (setReg8_stackTouched r v t).trans h.touched⟩

theorem setReg16 {st t : State} (h : MemoryAlone st t) (r : Reg16) (v : Word) : MemoryAlone st (setReg16 r v t) :=
  ⟨(setReg16_mem r v t).trans h.mem, (setReg16_stackTouched r v t).trans h.touched⟩

theorem indexedAddr (p : Indexed) (st : State) : MemoryAlone st (indexedAddr p st).2 :=
  ⟨indexedAddr_mem p st, indexedAddr_stackTouched p st⟩

theorem ea (m : MemMode) (st : State) : MemoryAlone st (ea m st).2 := ⟨ea_mem m st, ea_stackTouched m st⟩

theorem operand8 (m : Src8) (st : State) : MemoryAlone st (operand8 m st).2 :=
  ⟨operand8_mem m st, operand8_stackTouched m st⟩

theorem operand16 (m : Src16) (st : State) : MemoryAlone st (operand16 m st).2 :=
  ⟨operand16_mem m st, operand16_stackTouched m st⟩

theorem pullReg8 (k : Stack) (r : Reg8) (st : State) : MemoryAlone st (pullReg8 k r st) :=
  ((refl st).setReg16 _ _).setReg8 _ _

theorem pullReg16 (k : Stack) (r : Reg16) (st : State) : MemoryAlone st (pullReg16 k r st) :=
  ((refl st).setReg16 _ _).setReg16 _ _

theorem pullMask (k : Stack) (mm : Byte) (st : State) : MemoryAlone st (pullMask k mm st) := by
  rw [pullMask_pulled k mm st]
  exact ⟨rfl, rfl⟩

theorem interruptReturn (st : State) : MemoryAlone st (interruptReturn st) := by
  have hcc := pullReg8 .s .cc st
  unfold Machine.interruptReturn
  dsimp only
  split
  · exact hcc.trans (pullMask _ _ _)
  · exact hcc.trans (pullReg16 _ _ _)

end MemoryAlone

theorem branch_memoryAlone (k : Cond) (off : Word) (st : State) : Ends (MemoryAlone st) (branch k off st) := by
  unfold branch
  split
  · exact (MemoryAlone.refl st).setReg16 .pc _
  · exact MemoryAlone.refl st

theorem execTfr_memoryAlone (p : RegPair) (st : State) : Ends (MemoryAlone st) (execTfr p st) := by
  cases p with
  | wide r1 r2 => exact (MemoryAlone.refl st).setReg16 _ _
  | narrow r1 r2 => exact (MemoryAlone.refl st).setReg8 _ _

theorem execExg_memoryAlone (p : RegPair) (st : State) : Ends (MemoryAlone st) (execExg p st) := by
  cases p with
  | wide r1 r2 => exact ((MemoryAlone.refl st).setReg16 _ _).setReg16 _ _
  | narrow r1 r2 => exact ((MemoryAlone.refl st).setReg8 _ _).setReg8 _ _

theorem placeholder_memoryAlone (which : Placeholder) (n : Word) {act : State → Result} {st : State}
    (h : Ends (MemoryAlone st) (act st)) : Ends (MemoryAlone st) (placeholder which n act st) := by
  unfold placeholder
  split
  · exact Ends.raise _ (MemoryAlone.refl st)
  · exact MemoryAlone.refl st
  · exact h

/-! ### The arms of `exec` -/

/-- An instruction that is none of the writers of 60_exceptions R402 leaves memory and the touched set alone, also where
it faults: each arm by its shape. -/
theorem exec_memoryAlone {i : Instr} (hi : writesMem i = false) (st : State) :
    Ends (MemoryAlone st) (exec i st) := by
  cases i
  case sta | stb | std | stx | sty | stu | sts => cases hi
  case neg | com | lsr | ror | asr | asl | rol | dec | inc | clr => cases hi
  case pshs | pshu | bsr | lbsr | jsr | swi | swi2 | swi3 => cases hi
  case prefixPage2 | prefixPage3 => exact Ends.raise _ (MemoryAlone.refl st)
  case suba | subb | sbca | sbcb | adda | addb | adca | adcb =>
    exact ((MemoryAlone.operand8 _ st).setCC _).setReg8 _ _
  case anda | andb | eora | eorb | ora | orb | lda | ldb =>
    exact ((MemoryAlone.operand8 _ st).setCC _).setReg8 _ _
  case cmpa | cmpb | bita | bitb => exact (MemoryAlone.operand8 _ st).setCC _
  case addd | subd | ldd | ldx | ldy | ldu | lds => exact ((MemoryAlone.operand16 _ st).setCC _).setReg16 _ _
  case cmpd | cmpx | cmpy | cmpu | cmps => exact (MemoryAlone.operand16 _ st).setCC _
  case nega | coma | lsra | rora | asra | asla | rola | deca | inca | clra =>
    exact ((MemoryAlone.refl st).setCC _).setReg8 _ _
  case negb | comb | lsrb | rorb | asrb | aslb | rolb | decb | incb | clrb =>
    exact ((MemoryAlone.refl st).setCC _).setReg8 _ _
  case daa => exact ((MemoryAlone.refl st).setCC _).setReg8 _ _
  case mul | sex => exact ((MemoryAlone.refl st).setCC _).setReg16 _ _
  case tsta | tstb | orcc | andcc => exact (MemoryAlone.refl st).setCC _
  case tst => exact (MemoryAlone.ea _ st).setCC _
  case jmp => exact (MemoryAlone.ea _ st).setReg16 _ _
  case leax | leay => exact ((MemoryAlone.indexedAddr _ st).setCC _).setReg16 _ _
  case leas | leau => exact (MemoryAlone.indexedAddr _ st).setReg16 _ _
  case abx => exact (MemoryAlone.refl st).setReg16 _ _
  case nop => exact MemoryAlone.refl st
  case tfr => exact execTfr_memoryAlone _ st
  case exg => exact execExg_memoryAlone _ st
  case rts => exact MemoryAlone.pullReg16 .s .pc st
  case puls | pulu => exact MemoryAlone.pullMask _ _ st
  case bra | lbra => exact branch_memoryAlone .ra _ st
  case brn o => exact branch_memoryAlone .rn (sext8 o) st
  case lbrn o => exact branch_memoryAlone .rn o st
  case bhi | bls | bcc | bcs | bne | beq | bvc => exact branch_memoryAlone _ _ st
  case bvs | bpl | bmi | bge | blt | bgt | ble => exact branch_memoryAlone _ _ st
  case lbhi | lbls | lbcc | lbcs | lbne | lbeq | lbvc => exact branch_memoryAlone _ _ st
  case lbvs | lbpl | lbmi | lbge | lblt | lbgt | lble => exact branch_memoryAlone _ _ st
  case sync | cwai => exact placeholder_memoryAlone _ _ (Ends.raise _ (MemoryAlone.refl st))
  case rti =>
    exact placeholder_memoryAlone .rti 1 (act := fun t => .next (interruptReturn t)) (MemoryAlone.interruptReturn st)

/-- Settles O55: a next state is one the instruction ends in. -/
theorem whoWritesMemory : Obligations.WhoWritesMemory := by
  intro i st t hexec hi
  have hends := exec_memoryAlone hi st
  rw [hexec] at hends
  exact ⟨hends.mem, hends.touched⟩

end Sys2Proof.Machine
end

section
/-! What `decode` reads: the slot of the opcode map that the bytes begin with, and that slot's operand bytes
(spec/30_encoding.md R80 to R94). -/

namespace Sys2Proof

/-! ## The operand bytes of a slot -/

/-- The operand bytes of the formats of 30_encoding R84, and the instruction they make: none, a byte, a word, an indexed
post-byte with its offset bytes, or a register pair. -/
inductive Operand where
  | inh (i : Instr)
  | byte (f : Byte → Instr)
  | word (f : Word → Instr)
  | post (f : Indexed → Instr)
  | pair (f : RegPair → Instr)

/-- The operand bytes of a format. -/
def operandOf : Form → Operand
  | .inh i => .inh i
  | .imm8 f | .rel8 f | .regmask f => .byte f
  | .dir f => .byte fun dd => f (.dir dd)
  | .imm16 f | .rel16 f => .word f
  | .ext f => .word fun a => f (.ext a)
  | .idx f => .post fun p => f (.idx p)
  | .lea f => .post f
  | .regpair f => .pair f

/-- The operand at byte `n`, and the length of the whole instruction. -/
def decodeOperand (n : Nat) (bs : List Byte) : Operand → Except DecodeError (Instr × Nat)
  | .inh i => .ok (i, n)
  | .byte f => .ok (f (byteAt bs n), n + 1)
  | .word f => .ok (f (wordAt bs n), n + 2)
  | .post f => decodeIdx f n bs
  | .pair f =>
    match decodePair (byteAt bs n) with
    | some p => .ok (f p, n + 1)
    | none => .error (.illegalRegisterCode n (byteAt bs n))

theorem decodeForm_eq_decodeOperand (n : Nat) (bs : List Byte) (f : Form) :
    decodeForm n bs f = decodeOperand n bs (operandOf f) := by
  cases f <;> rfl

/-! ## Dispatch -/

/-- 0x10 before a filled slot of page 2. -/
theorem decode_filledPage2 {bs : List Byte} {f : Form} (h : byteAt bs 0 = Config.page2Byte)
    (hs : slotOf (byteAt bs 1) page2 = some f) : decode bs = decodeForm 2 bs f := by
  unfold decode
  dsimp only
  rw [if_pos h, hs]

/-- 0x11 before a filled slot of page 3. -/
theorem decode_filledPage3 {bs : List Byte} {f : Form} (h : byteAt bs 0 = Config.page3Byte)
    (hs : slotOf (byteAt bs 1) page3 = some f) : decode bs = decodeForm 2 bs f := by
  unfold decode
  dsimp only
  rw [h, if_neg (by decide), if_pos rfl, hs]

/-- A filled slot of page 1. -/
theorem decode_filledPage1 {bs : List Byte} {f : Form} (h2 : byteAt bs 0 ≠ Config.page2Byte)
    (h3 : byteAt bs 0 ≠ Config.page3Byte) (hs : page1Slot (byteAt bs 0) = some f) :
    decode bs = decodeForm 1 bs f := by
  unfold decode
  dsimp only
  rw [if_neg h2, if_neg h3, hs]

/-- 0x10 before an empty slot of page 2. -/
theorem decode_emptyPage2 {bs : List Byte} (h : byteAt bs 0 = Config.page2Byte)
    (hs : slotOf (byteAt bs 1) page2 = none) : decode bs = .ok (.prefixPage2 (byteAt bs 1), 2) := by
  unfold decode
  dsimp only
  rw [if_pos h, hs]

/-- 0x11 before an empty slot of page 3. -/
theorem decode_emptyPage3 {bs : List Byte} (h : byteAt bs 0 = Config.page3Byte)
    (hs : slotOf (byteAt bs 1) page3 = none) : decode bs = .ok (.prefixPage3 (byteAt bs 1), 2) := by
  unfold decode
  dsimp only
  rw [h, if_neg (by decide), if_pos rfl, hs]

/-- An empty slot of page 1 (30_encoding R108). -/
theorem decode_emptyPage1 {bs : List Byte} (h2 : byteAt bs 0 ≠ Config.page2Byte) (h3 : byteAt bs 0 ≠ Config.page3Byte)
    (hs : page1Slot (byteAt bs 0) = none) : decode bs = .error (.unknownOpcode (byteAt bs 0)) := by
  unfold decode
  dsimp only
  rw [if_neg h2, if_neg h3, hs]

/-! ## The slot -/

/-- The number of opcode bytes and the operand of the filled slot that the bytes begin with (30_encoding R82, R83). -/
def slotAt (bs : List Byte) : Option (Nat × Operand) :=
  if byteAt bs 0 = Config.page2Byte then (slotOf (byteAt bs 1) page2).map fun f => (2, operandOf f)
  else if byteAt bs 0 = Config.page3Byte then (slotOf (byteAt bs 1) page3).map fun f => (2, operandOf f)
  else (page1Slot (byteAt bs 0)).map fun f => (1, operandOf f)

/-- A filled slot is one of a table's. -/
theorem slotAt_some {bs : List Byte} {n : Nat} {o : Operand} (h : slotAt bs = some (n, o)) :
    ∃ f, o = operandOf f ∧ decode bs = decodeForm n bs f ∧
      (n = 2 ∧ slotOf (byteAt bs 1) page2 = some f ∨ n = 2 ∧ slotOf (byteAt bs 1) page3 = some f ∨
        n = 1 ∧ byteAt bs 0 ≠ Config.page2Byte ∧ byteAt bs 0 ≠ Config.page3Byte ∧
          page1Slot (byteAt bs 0) = some f) := by
  by_cases h2 : byteAt bs 0 = Config.page2Byte
  · rw [slotAt, if_pos h2] at h
    obtain ⟨f, hf, he⟩ := Option.map_eq_some_iff.1 h
    cases he
    exact ⟨f, rfl, decode_filledPage2 h2 hf, .inl ⟨rfl, hf⟩⟩
  · by_cases h3 : byteAt bs 0 = Config.page3Byte
    · rw [slotAt, if_neg h2, if_pos h3] at h
      obtain ⟨f, hf, he⟩ := Option.map_eq_some_iff.1 h
      cases he
      exact ⟨f, rfl, decode_filledPage3 h3 hf, .inr (.inl ⟨rfl, hf⟩)⟩
    · rw [slotAt, if_neg h2, if_neg h3] at h
      obtain ⟨f, hf, he⟩ := Option.map_eq_some_iff.1 h
      cases he
      exact ⟨f, rfl, decode_filledPage1 h2 h3 hf, .inr (.inr ⟨rfl, h2, h3, hf⟩)⟩

/-- Bytes that begin with a filled slot are decoded by its operand. -/
theorem decode_of_slotAt {bs : List Byte} {n : Nat} {o : Operand} (h : slotAt bs = some (n, o)) :
    decode bs = decodeOperand n bs o := by
  obtain ⟨f, rfl, hdec, -⟩ := slotAt_some h
  rw [hdec, decodeForm_eq_decodeOperand]

theorem slotAt_length {bs : List Byte} {n : Nat} {o : Operand} (h : slotAt bs = some (n, o)) : n = 1 ∨ n = 2 := by
  obtain ⟨-, -, -, ⟨hn, -⟩ | ⟨hn, -⟩ | ⟨hn, -⟩⟩ := slotAt_some h
  · exact .inr hn
  · exact .inr hn
  · exact .inl hn

/-- Bytes that begin with no filled slot begin with an empty one: of page 2, of page 3, or of page 1. -/
theorem slotAt_none {bs : List Byte} (h : slotAt bs = none) :
    (byteAt bs 0 = Config.page2Byte ∧ slotOf (byteAt bs 1) page2 = none) ∨
    (byteAt bs 0 = Config.page3Byte ∧ slotOf (byteAt bs 1) page3 = none) ∨
    (byteAt bs 0 ≠ Config.page2Byte ∧ byteAt bs 0 ≠ Config.page3Byte ∧ page1Slot (byteAt bs 0) = none) := by
  by_cases h2 : byteAt bs 0 = Config.page2Byte
  · rw [slotAt, if_pos h2, Option.map_eq_none_iff] at h
    exact .inl ⟨h2, h⟩
  · by_cases h3 : byteAt bs 0 = Config.page3Byte
    · rw [slotAt, if_neg h2, if_pos h3, Option.map_eq_none_iff] at h
      exact .inr (.inl ⟨h3, h⟩)
    · rw [slotAt, if_neg h2, if_neg h3, Option.map_eq_none_iff] at h
      exact .inr (.inr ⟨h2, h3, h⟩)

/-! ## Bytes that are not read -/

/-- Two byte lists agree on their first `n` bytes, missing ones read as 0. -/
def AgreeTo (n : Nat) (bs bs' : List Byte) : Prop := ∀ k < n, byteAt bs' k = byteAt bs k

theorem agreeTo_append (front rest : List Byte) : AgreeTo front.length front (front ++ rest) :=
  fun _ hk => byteAt_append front rest hk

theorem AgreeTo.mono {m n : Nat} {bs bs' : List Byte} (h : AgreeTo n bs bs') (hm : m ≤ n) : AgreeTo m bs bs' :=
  fun k hk => h k (Nat.lt_of_lt_of_le hk hm)

/-- The slot depends on the bytes of its opcode alone. -/
theorem slotAt_congr {bs bs' : List Byte} {n : Nat} {o : Operand} (h : slotAt bs = some (n, o))
    (ha : AgreeTo n bs bs') : slotAt bs' = some (n, o) := by
  have h0 : byteAt bs' 0 = byteAt bs 0 := ha 0 (by have := slotAt_length h; omega)
  by_cases hn : n = 2
  · simpa only [slotAt, h0, ha 1 (by omega)] using h
  · obtain ⟨-, -, -, ⟨h2, -⟩ | ⟨h2, -⟩ | ⟨-, hpage2, hpage3, -⟩⟩ := slotAt_some h
    · exact absurd h2 hn
    · exact absurd h2 hn
    · simpa only [slotAt, h0, if_neg hpage2, if_neg hpage3] using h

end Sys2Proof
end

section
/-! Decoding an encoded instruction: one lemma per operand shape of the encoder, then each constructor by its opcode bytes
(spec/30_encoding.md R80, R86 to R94, R101; spec/40_effective_address.md R146). -/

namespace Sys2Proof

/-- The bytes decode to the instruction, all of them and no more, whatever follows. -/
def DecodesTo (code : List Byte) (i : Instr) : Prop :=
  ∀ rest : List Byte, decode (code ++ rest) = .ok (i, code.length)

/-! ## Opcode bytes and operand bytes -/

/-- Opcode bytes of a filled slot have their operand decoded after them. -/
theorem decode_opcode {oc : List Byte} {o : Operand} (h : slotAt oc = some (oc.length, o)) (operand : List Byte) :
    decode (oc ++ operand) = decodeOperand oc.length (oc ++ operand) o :=
  decode_of_slotAt (slotAt_congr h (agreeTo_append oc operand))

/-- Bytes after the front part of a list. -/
theorem byteAt_append_right (front l : List Byte) (k : Nat) :
    byteAt (front ++ l) (front.length + k) = byteAt l k := by
  simp [byteAt, List.getD_eq_getElem?_getD, List.getElem?_append_right]

theorem wordAt_append (front rest : List Byte) (w : Word) :
    wordAt (front ++ ([hiByte w, loByte w] ++ rest)) front.length = w :=
  wordAt_layout _ _ w (byteAt_append_right front _ 0) (byteAt_append_right front _ 1)

section Shapes

variable (oc : List Byte)

theorem decodesTo_inh {i : Instr} (h : slotAt oc = some (oc.length, .inh i)) : DecodesTo oc i :=
  fun rest => decode_opcode h rest

theorem decodesTo_byte {f : Byte → Instr} (h : slotAt oc = some (oc.length, .byte f)) (b : Byte) :
    DecodesTo (oc ++ [b]) (f b) := fun rest => by
  have hb : byteAt (oc ++ ([b] ++ rest)) oc.length = b := byteAt_append_right oc _ 0
  rw [List.append_assoc, decode_opcode h, decodeOperand, hb, List.length_append]
  rfl

theorem decodesTo_word {f : Word → Instr} (h : slotAt oc = some (oc.length, .word f)) (w : Word) :
    DecodesTo (oc ++ [hiByte w, loByte w]) (f w) := fun rest => by
  rw [List.append_assoc, decode_opcode h, decodeOperand, wordAt_append, List.length_append]
  rfl

theorem decodesTo_post {f : Indexed → Instr} (h : slotAt oc = some (oc.length, .post f)) (p : Indexed) :
    DecodesTo (oc ++ encodeIndexed p) (f p) := fun rest => by
  rw [List.append_assoc, decode_opcode h, decodeOperand, decodeIdx_encodeIndexed, List.length_append]

theorem decodesTo_pair {f : RegPair → Instr} (h : slotAt oc = some (oc.length, .pair f)) (p : RegPair) :
    DecodesTo (oc ++ [encodePair p]) (f p) := fun rest => by
  have hb : byteAt (oc ++ ([encodePair p] ++ rest)) oc.length = encodePair p := byteAt_append_right oc _ 0
  rw [List.append_assoc, decode_opcode h, decodeOperand, hb, decodePair_encodePair, List.length_append]
  rfl

end Shapes

/-! ## Operands of several modes -/

/-- The opcode bytes `dir`, `idx` and `ext` of a page hold the three memory forms of `f` (30_encoding R88 to R90). -/
structure MemSlots (page : List Byte) (dir idx ext : Byte) (f : MemMode → Instr) : Prop where
  dir : slotAt (page ++ [dir]) = some ((page ++ [dir]).length, .byte fun dd => f (.dir dd))
  idx : slotAt (page ++ [idx]) = some ((page ++ [idx]).length, .post fun p => f (.idx p))
  ext : slotAt (page ++ [ext]) = some ((page ++ [ext]).length, .word fun a => f (.ext a))

section Modes

variable (page : List Byte) {imm dir idx ext : Byte}

theorem decodesTo_mem {f : MemMode → Instr} (h : MemSlots page dir idx ext f) (m : MemMode) :
    DecodesTo (page ++ encodeMem dir idx ext m) (f m) := by
  cases m with
  | dir dd => simpa [encodeMem] using decodesTo_byte _ h.dir dd
  | idx p => simpa [encodeMem] using decodesTo_post _ h.idx p
  | ext a => simpa [encodeMem] using decodesTo_word _ h.ext a

theorem decodesTo_src8 {f : Src8 → Instr}
    (hi : slotAt (page ++ [imm]) = some ((page ++ [imm]).length, .byte fun ii => f (.imm ii)))
    (hm : MemSlots page dir idx ext fun m => f (.mem m)) (m : Src8) :
    DecodesTo (page ++ encodeSrc8 imm dir idx ext m) (f m) := by
  cases m with
  | imm ii => simpa [encodeSrc8] using decodesTo_byte _ hi ii
  | mem m => exact decodesTo_mem page hm m

theorem decodesTo_src16 {f : Src16 → Instr}
    (hi : slotAt (page ++ [imm]) = some ((page ++ [imm]).length, .word fun w => f (.imm w)))
    (hm : MemSlots page dir idx ext fun m => f (.mem m)) (m : Src16) :
    DecodesTo (page ++ encodeSrc16 imm dir idx ext m) (f m) := by
  cases m with
  | imm w => simpa [encodeSrc16] using decodesTo_word _ hi w
  | mem m => exact decodesTo_mem page hm m

end Modes

/-! ## Page bytes before an empty slot -/

/-- A page's table and its list of filled slots name the same opcode bytes. -/
theorem slotOf_eq_none_iff (op : Byte) (page : List (Byte × Form)) :
    slotOf op page = none ↔ op ∉ page.map Prod.fst := by
  induction page with
  | nil => simp [slotOf]
  | cons e page ih =>
    obtain ⟨k, f⟩ := e
    by_cases h : k = op
    · simp [slotOf, h]
    · simp [slotOf, h, ih, Ne.symm h]

theorem slotOf_page2_eq_none_iff (op : Byte) : slotOf op page2 = none ↔ op ∉ page2Filled :=
  slotOf_eq_none_iff op page2

theorem slotOf_page3_eq_none_iff (op : Byte) : slotOf op page3 = none ↔ op ∉ page3Filled :=
  slotOf_eq_none_iff op page3

theorem wellFormed_prefixPage2_iff (op : Byte) : wellFormed (.prefixPage2 op) = true ↔ op ∉ page2Filled := by
  simp [wellFormed]

theorem wellFormed_prefixPage3_iff (op : Byte) : wellFormed (.prefixPage3 op) = true ↔ op ∉ page3Filled := by
  simp [wellFormed]

theorem decodesTo_prefixPage2 {op : Byte} (h : op ∉ page2Filled) : DecodesTo [0x10#8, op] (.prefixPage2 op) :=
  fun rest => decode_emptyPage2 (bs := 0x10#8 :: op :: rest) rfl ((slotOf_page2_eq_none_iff op).2 h)

theorem decodesTo_prefixPage3 {op : Byte} (h : op ∉ page3Filled) : DecodesTo [0x11#8, op] (.prefixPage3 op) :=
  fun rest => decode_emptyPage3 (bs := 0x11#8 :: op :: rest) rfl ((slotOf_page3_eq_none_iff op).2 h)

/-! ## Every instruction -/

/-- Each constructor by the shape of its encoding; what is left to see is that its opcode bytes index its own slots. -/
theorem decodesTo_encode (i : Instr) (h : wellFormed i = true) : DecodesTo (encode i) i := by
  cases i
  case prefixPage2 op => exact decodesTo_prefixPage2 ((wellFormed_prefixPage2_iff op).1 h)
  case prefixPage3 op => exact decodesTo_prefixPage3 ((wellFormed_prefixPage3_iff op).1 h)
  case neg | com | lsr | ror | asr | asl | rol | dec | inc | tst | jmp | clr =>
    exact decodesTo_mem [] ⟨rfl, rfl, rfl⟩ _
  case sta | stb | std | stx | stu | jsr => exact decodesTo_mem [] ⟨rfl, rfl, rfl⟩ _
  case sty | sts => exact decodesTo_mem [0x10#8] ⟨rfl, rfl, rfl⟩ _
  case suba | cmpa | sbca | anda | bita | lda | eora | adca | ora | adda =>
    exact decodesTo_src8 [] rfl ⟨rfl, rfl, rfl⟩ _
  case subb | cmpb | sbcb | andb | bitb | ldb | eorb | adcb | orb | addb =>
    exact decodesTo_src8 [] rfl ⟨rfl, rfl, rfl⟩ _
  case subd | addd | cmpx | ldx | ldd | ldu => exact decodesTo_src16 [] rfl ⟨rfl, rfl, rfl⟩ _
  case cmpd | cmpy | ldy | lds => exact decodesTo_src16 [0x10#8] rfl ⟨rfl, rfl, rfl⟩ _
  case cmpu | cmps => exact decodesTo_src16 [0x11#8] rfl ⟨rfl, rfl, rfl⟩ _
  case nop | sync | daa | sex | rts | abx | rti | mul | swi | swi2 | swi3 => exact decodesTo_inh _ rfl
  case nega | coma | lsra | rora | asra | asla | rola | deca | inca | tsta | clra => exact decodesTo_inh _ rfl
  case negb | comb | lsrb | rorb | asrb | aslb | rolb | decb | incb | tstb | clrb => exact decodesTo_inh _ rfl
  case orcc | andcc | cwai | pshs | puls | pshu | pulu | bsr => exact decodesTo_byte [_] rfl _
  case bra | brn | bhi | bls | bcc | bcs | bne | beq => exact decodesTo_byte [_] rfl _
  case bvc | bvs | bpl | bmi | bge | blt | bgt | ble => exact decodesTo_byte [_] rfl _
  case lbra | lbsr => exact decodesTo_word [_] rfl _
  case lbrn | lbhi | lbls | lbcc | lbcs | lbne | lbeq => exact decodesTo_word [_, _] rfl _
  case lbvc | lbvs | lbpl | lbmi | lbge | lblt | lbgt | lble => exact decodesTo_word [_, _] rfl _
  case exg | tfr => exact decodesTo_pair [_] rfl _
  case leax | leay | leas | leau => exact decodesTo_post [_] rfl _

/-- Settles O1, by the shape of the encoding of each constructor. -/
theorem decodeEncode : Obligations.DecodeEncode := fun i rest h => decodesTo_encode i h rest

end Sys2Proof
end

section
/-! What is decoded: well-formed, one to five bytes long, independent of the bytes after it, with its immediate operand as
its last bytes; and which bytes are no instruction (spec/30_encoding.md R80 to R109; spec/40_effective_address.md R143). -/

namespace Sys2Proof

open Sys2Proof.Machine Sys2Proof.Safety

/-! ## Indexed post-bytes -/

/-- The sub-modes without a meaning (40_effective_address R143). -/
def undefinedNibbles : List (BitVec 4) := [0x7#4, 0xA#4, 0xE#4, 0xF#4]

theorem decodeSubMode_isNone (m : BitVec 4) (r : IndexReg) (o1 o2 : Byte) :
    (decodeSubMode m r o1 o2).isNone = undefinedNibbles.contains m := by
  simp only [decodeSubMode, apply_ite Option.isNone, Option.isNone_some, Option.isNone_none]
  revert m
  decide

theorem undefinedSubMode_eq : ∀ pb : Byte,
    undefinedSubMode pb = (pb.getLsbD 7 && undefinedNibbles.contains (pb.extractLsb' 0 4)) := by decide

theorem decodeIndexed_isNone (pb o1 o2 : Byte) : (decodeIndexed pb o1 o2).isNone = undefinedSubMode pb := by
  rw [undefinedSubMode_eq, ← decodeSubMode_isNone _ (indexRegOf (pb.extractLsb' 5 2)) o1 o2, decodeIndexed]
  cases pb.getLsbD 7 with
  | false => rfl
  | true => cases decodeSubMode (pb.extractLsb' 0 4) (indexRegOf (pb.extractLsb' 5 2)) o1 o2 <;> rfl

/-- Settles O4: a simple post-byte always has a meaning, a complex one where its sub-mode is defined. -/
theorem illegalPostBytes : Obligations.IllegalPostBytes := fun pb o1 o2 => by
  rw [← decodeIndexed_isNone pb o1 o2, Option.isNone_iff_eq_none]

/-- What is read after a post-byte, as a function of the two bytes after it: nothing, one byte, a word, or the post-byte
has no meaning. -/
inductive OffsetRead {α : Type} (g : Byte → Byte → Option (α × Nat)) : Prop
  | undefined (h : ∀ o1 o2, g o1 o2 = none)
  | nothing (a : α) (h : ∀ o1 o2, g o1 o2 = some (a, 0))
  | byte (f : Byte → α) (h : ∀ o1 o2, g o1 o2 = some (f o1, 1))
  | word (f : Word → α) (h : ∀ o1 o2, g o1 o2 = some (f (joinBytes o1 o2), 2))

/-- The sub-modes by their offset bytes (40_effective_address R129). -/
theorem subMode_kinds : ∀ m : BitVec 4,
    m ∈ undefinedNibbles ∨ m ∈ [0x0#4, 0x1#4, 0x2#4, 0x3#4, 0x4#4, 0x5#4, 0x6#4, 0xB#4] ∨
      m ∈ [0x8#4, 0xC#4] ∨ m ∈ [0x9#4, 0xD#4] := by decide

theorem decodeSubMode_offsetRead (m : BitVec 4) (r : IndexReg) : OffsetRead (decodeSubMode m r) := by
  obtain h | h | h | h := subMode_kinds m <;> simp only [undefinedNibbles, List.mem_cons, List.not_mem_nil, or_false] at h
  · obtain rfl | rfl | rfl | rfl := h <;> exact .undefined fun _ _ => rfl
  · obtain rfl | rfl | rfl | rfl | rfl | rfl | rfl | rfl := h <;> exact .nothing _ fun _ _ => rfl
  · obtain rfl | rfl := h <;> exact .byte _ fun _ _ => rfl
  · obtain rfl | rfl := h <;> exact .word _ fun _ _ => rfl

/-- A simple operand is the post-byte's own, a complex one its sub-mode's with the indirect flag. -/
theorem decodeIndexed_offsetRead (pb : Byte) : OffsetRead (decodeIndexed pb) := by
  cases h7 : pb.getLsbD 7 with
  | false => exact .nothing _ fun o1 o2 => by rw [decodeIndexed, h7]; rfl
  | true =>
    cases decodeSubMode_offsetRead (pb.extractLsb' 0 4) (indexRegOf (pb.extractLsb' 5 2)) with
    | undefined h => exact .undefined fun o1 o2 => by rw [decodeIndexed, h7, h]; rfl
    | nothing m h => exact .nothing (.complex m (pb.getLsbD 4)) fun o1 o2 => by rw [decodeIndexed, h7, h]; rfl
    | byte f h => exact .byte (fun o => .complex (f o) (pb.getLsbD 4)) fun o1 o2 => by rw [decodeIndexed, h7, h]; rfl
    | word f h => exact .word (fun o => .complex (f o) (pb.getLsbD 4)) fun o1 o2 => by rw [decodeIndexed, h7, h]; rfl

/-! ## Bytes read -/

theorem wordAt_congr {n : Nat} {bs bs' : List Byte} (h : AgreeTo (n + 2) bs bs') : wordAt bs' n = wordAt bs n := by
  rw [wordAt, wordAt, h n (by omega), h (n + 1) (by omega)]

/-- An indexed operand reads its post-byte and no more bytes after it than it counts. -/
theorem decodeIdx_reads {f : Indexed → Instr} {n m : Nat} {bs : List Byte} {i : Instr}
    (h : decodeIdx f n bs = .ok (i, m)) :
    n ≤ m ∧ m ≤ n + 3 ∧ ∀ bs', AgreeTo m bs bs' → decodeIdx f n bs' = .ok (i, m) := by
  unfold decodeIdx at h ⊢
  cases decodeIndexed_offsetRead (byteAt bs n) with
  | undefined hg => rw [hg] at h; cases h
  | nothing p hg =>
    rw [hg] at h
    cases h
    exact ⟨by omega, by omega, fun bs' ha => by rw [ha n (by omega), hg]⟩
  | byte g hg =>
    rw [hg] at h
    cases h
    exact ⟨by omega, by omega, fun bs' ha => by rw [ha n (by omega), hg, ha (n + 1) (by omega)]⟩
  | word g hg =>
    rw [hg] at h
    cases h
    exact ⟨by omega, by omega, fun bs' ha => by
      rw [ha n (by omega), hg, ha (n + 1) (by omega), ha (n + 2) (by omega)]⟩

/-- An operand takes at most three bytes and reads no others. -/
theorem decodeOperand_reads {o : Operand} {n m : Nat} {bs : List Byte} {i : Instr}
    (h : decodeOperand n bs o = .ok (i, m)) :
    n ≤ m ∧ m ≤ n + 3 ∧ ∀ bs', AgreeTo m bs bs' → decodeOperand n bs' o = .ok (i, m) := by
  cases o with
  | inh j =>
    cases h
    exact ⟨by omega, by omega, fun _ _ => rfl⟩
  | byte f =>
    cases h
    exact ⟨by omega, by omega, fun bs' ha => by rw [decodeOperand, ha n (by omega)]⟩
  | word f =>
    cases h
    exact ⟨by omega, by omega, fun bs' ha => by rw [decodeOperand, wordAt_congr ha]⟩
  | post f => exact decodeIdx_reads h
  | pair f =>
    unfold decodeOperand at h ⊢
    cases hp : decodePair (byteAt bs n) with
    | none => rw [hp] at h; cases h
    | some p =>
      rw [hp] at h
      cases h
      exact ⟨by omega, by omega, fun bs' ha => by rw [ha n (by omega), hp]⟩

/-! ## The filled slots -/

/-- Whether an instruction is well-formed, and its immediate operands. -/
def immediates (i : Instr) : Bool × Option Byte × Option Word := (wellFormed i, immediate8 i, immediate16 i)

/-- What a slot makes of any operand is well-formed; in the immediate formats the operand is the immediate one, in the
others there is none (30_encoding R84 to R87). One equation for each format, true by evaluation at every slot. -/
def Form.Sound : Form → Prop
  | .inh i => immediates i = (true, none, none)
  | .imm8 f => (fun b => immediates (f b)) = fun b => (true, some b, none)
  | .imm16 f => (fun w => immediates (f w)) = fun w => (true, none, some w)
  | .dir f | .ext f | .idx f => (fun m => immediates (f m)) = fun _ => (true, none, none)
  | .lea f => (fun p => immediates (f p)) = fun _ => (true, none, none)
  | .rel8 f | .regmask f => (fun b => immediates (f b)) = fun _ => (true, none, none)
  | .rel16 f => (fun w => immediates (f w)) = fun _ => (true, none, none)
  | .regpair f => (fun p => immediates (f p)) = fun _ => (true, none, none)

/-- The filled slots of the three pages (30_encoding R96, R99, R100). -/
def filledSlots : List Form := page1.flatten.filterMap id ++ (page2 ++ page3).map Prod.snd

/-- Every slot of a list is sound, as one conjunction. -/
def AllSound : List Form → Prop
  | [] => True
  | f :: fs => f.Sound ∧ AllSound fs

theorem AllSound.sound {fs : List Form} (h : AllSound fs) {f : Form} (hf : f ∈ fs) : f.Sound := by
  induction fs with
  | nil => cases hf
  | cons g fs ih =>
    obtain ⟨hg, hfs⟩ := h
    cases hf with
    | head => exact hg
    | tail _ hmem => exact ih hfs hmem

theorem filledSlots_sound : AllSound filledSlots := by
  and_intros
  rotate_right
  · exact trivial
  all_goals exact rfl

/-- What a list holds at a place, but for the default, is in it. -/
theorem mem_of_getD_eq {α : Type} {l : List α} {n : Nat} {d a : α} (h : l.getD n d = a) (hd : a ≠ d) : a ∈ l := by
  rw [List.getD_eq_getElem?_getD] at h
  cases hl : l[n]? with
  | none => rw [hl] at h; exact absurd h.symm hd
  | some b =>
    rw [hl] at h
    cases h
    exact List.mem_of_getElem? hl

theorem page1Slot_mem {op : Byte} {f : Form} (h : page1Slot op = some f) : f ∈ filledSlots := by
  have hf := mem_of_getD_eq h (Option.some_ne_none f)
  have hrow := mem_of_getD_eq rfl (List.ne_nil_of_mem hf)
  exact List.mem_append_left _ (List.mem_filterMap.2 ⟨_, List.mem_flatten_of_mem hrow hf, rfl⟩)

theorem slotOf_mem {op : Byte} {f : Form} {page : List (Byte × Form)} (h : slotOf op page = some f) :
    (op, f) ∈ page := by
  induction page with
  | nil => cases h
  | cons e page ih =>
    obtain ⟨k, g⟩ := e
    by_cases hk : k = op
    · rw [slotOf, if_pos hk] at h
      cases h
      exact hk ▸ List.mem_cons_self
    · rw [slotOf, if_neg hk] at h
      exact List.mem_cons_of_mem _ (ih h)

/-- The slot that bytes begin with is one of the tables'. -/
theorem slotAt_mem {bs : List Byte} {n : Nat} {o : Operand} (h : slotAt bs = some (n, o)) :
    ∃ f ∈ filledSlots, decode bs = decodeForm n bs f := by
  obtain ⟨f, -, hdec, hf⟩ := slotAt_some h
  refine ⟨f, ?_, hdec⟩
  obtain ⟨-, hf⟩ | ⟨-, hf⟩ | ⟨-, -, -, hf⟩ := hf
  · exact List.mem_append_right _ (List.mem_map_of_mem (List.mem_append_left _ (slotOf_mem hf)))
  · exact List.mem_append_right _ (List.mem_map_of_mem (List.mem_append_right _ (slotOf_mem hf)))
  · exact page1Slot_mem hf

/-! ## The instruction decoded -/

/-- The instruction is well-formed, and an immediate operand of it is the last byte or the last word of its `m` bytes. -/
structure CarriesLast (bs : List Byte) (i : Instr) (m : Nat) : Prop where
  wf : wellFormed i = true
  imm8 : ∀ ii, immediate8 i = some ii → byteAt bs (m - 1) = ii
  imm16 : ∀ w, immediate16 i = some w → joinBytes (byteAt bs (m - 2)) (byteAt bs (m - 1)) = w

section Carries

variable {bs : List Byte} {i : Instr} {m : Nat}

/-- An instruction whose immediate operands, if any, are the last bytes. -/
theorem CarriesLast.of_immediates {b : Option Byte} {w : Option Word} (h : immediates i = (true, b, w))
    (hb : ∀ ii ∈ b, byteAt bs (m - 1) = ii)
    (hw : ∀ v ∈ w, joinBytes (byteAt bs (m - 2)) (byteAt bs (m - 1)) = v) : CarriesLast bs i m := by
  obtain ⟨hwf, rfl, rfl⟩ : wellFormed i = true ∧ immediate8 i = b ∧ immediate16 i = w := by
    simpa [immediates] using h
  exact ⟨hwf, hb, hw⟩

/-- An instruction without an immediate operand. -/
theorem CarriesLast.of_none (h : immediates i = (true, none, none)) : CarriesLast bs i m :=
  .of_immediates h nofun nofun

theorem decodeIdx_carriesLast {f : Indexed → Instr} (hf : ∀ p, immediates (f p) = (true, none, none)) {n : Nat}
    (h : decodeIdx f n bs = .ok (i, m)) : CarriesLast bs i m := by
  unfold decodeIdx at h
  split at h
  · cases h
    exact .of_none (hf _)
  · cases h

/-- The last bytes that a format reads are its operand. -/
theorem decodeForm_carriesLast {f : Form} (hf : f.Sound) {n : Nat} (h : decodeForm n bs f = .ok (i, m)) :
    CarriesLast bs i m := by
  cases f
  case inh => cases h; exact .of_none hf
  case imm8 => cases h; exact .of_immediates (congrFun hf _) (fun _ => Option.some.inj) nofun
  case imm16 => cases h; exact .of_immediates (congrFun hf _) nofun fun _ => Option.some.inj
  case dir | ext | rel8 | rel16 | regmask => cases h; exact .of_none (congrFun hf _)
  case idx => exact decodeIdx_carriesLast (fun p => congrFun hf (.idx p)) h
  case lea => exact decodeIdx_carriesLast (congrFun hf) h
  case regpair =>
    rw [decodeForm] at h
    split at h
    · cases h
      exact .of_none (congrFun hf _)
    · cases h

end Carries

/-- What decodes is a filled slot with its operand, or a page byte before an empty slot. -/
theorem decode_ok_cases {bs : List Byte} {i : Instr} {m : Nat} (h : decode bs = .ok (i, m)) :
    (∃ n o, slotAt bs = some (n, o) ∧ decodeOperand n bs o = .ok (i, m)) ∨
    (byteAt bs 0 = Config.page2Byte ∧ slotOf (byteAt bs 1) page2 = none ∧ i = .prefixPage2 (byteAt bs 1) ∧ m = 2) ∨
    (byteAt bs 0 = Config.page3Byte ∧ slotOf (byteAt bs 1) page3 = none ∧ i = .prefixPage3 (byteAt bs 1) ∧ m = 2) := by
  cases hs : slotAt bs with
  | some e => exact .inl ⟨e.1, e.2, rfl, by rw [← decode_of_slotAt hs, h]⟩
  | none =>
    obtain ⟨h2, he⟩ | ⟨h3, he⟩ | ⟨h2, h3, he⟩ := slotAt_none hs
    · rw [decode_emptyPage2 h2 he] at h
      cases h
      exact .inr (.inl ⟨h2, he, rfl, rfl⟩)
    · rw [decode_emptyPage3 h3 he] at h
      cases h
      exact .inr (.inr ⟨h3, he, rfl, rfl⟩)
    · rw [decode_emptyPage1 h2 h3 he] at h
      cases h

theorem decode_carriesLast {bs : List Byte} {i : Instr} {m : Nat} (h : decode bs = .ok (i, m)) :
    CarriesLast bs i m := by
  obtain ⟨n, o, hs, -⟩ | ⟨-, he, rfl, -⟩ | ⟨-, he, rfl, -⟩ := decode_ok_cases h
  · obtain ⟨f, hf, hdec⟩ := slotAt_mem hs
    exact decodeForm_carriesLast (filledSlots_sound.sound hf) (hdec.symm.trans h)
  · have hwf := (wellFormed_prefixPage2_iff _).2 ((slotOf_page2_eq_none_iff _).1 he)
    exact .of_none (by rw [immediates, hwf]; rfl)
  · have hwf := (wellFormed_prefixPage3_iff _).2 ((slotOf_page3_eq_none_iff _).1 he)
    exact .of_none (by rw [immediates, hwf]; rfl)

theorem decode_length {bs : List Byte} {i : Instr} {m : Nat} (h : decode bs = .ok (i, m)) : 1 ≤ m ∧ m ≤ 5 := by
  obtain ⟨n, o, hs, ho⟩ | ⟨-, -, -, rfl⟩ | ⟨-, -, -, rfl⟩ := decode_ok_cases h
  · have hn := slotAt_length hs
    obtain ⟨hle, hge, -⟩ := decodeOperand_reads ho
    omega
  · decide
  · decide

/-- The bytes after an instruction do not matter. -/
theorem decode_congr {bs bs' : List Byte} {i : Instr} {m : Nat} (h : decode bs = .ok (i, m))
    (ha : AgreeTo m bs bs') : decode bs' = .ok (i, m) := by
  obtain ⟨n, o, hs, ho⟩ | ⟨h2, he, rfl, rfl⟩ | ⟨h3, he, rfl, rfl⟩ := decode_ok_cases h
  · obtain ⟨hle, -, hcongr⟩ := decodeOperand_reads ho
    rw [decode_of_slotAt (slotAt_congr hs (ha.mono hle)), hcongr bs' ha]
  · rw [← ha 1 (by decide)] at he ⊢
    exact decode_emptyPage2 ((ha 0 (by decide)).trans h2) he
  · rw [← ha 1 (by decide)] at he ⊢
    exact decode_emptyPage3 ((ha 0 (by decide)).trans h3) he

/-- Settles O2, by what a filled slot makes of its operand and what that operand reads. -/
theorem decodedWellFormed : Obligations.DecodedWellFormed := fun _ _ _ h =>
  ⟨(decode_carriesLast h).wf, (decode_length h).1, (decode_length h).2, fun _ ha => decode_congr h ha⟩

/-- Settles O60: a slot with an immediate operand makes it of the bytes it reads last. -/
theorem immediateOperands : Obligations.ImmediateOperands := by
  refine ⟨fun bs i n h => ⟨fun ii h8 => ?_, fun w h16 => ?_⟩, fun _ _ => rfl, fun _ _ => rfl⟩
  · exact (decode_carriesLast h).imm8 ii h8
  · rw [← joinBytes_toNat, (decode_carriesLast h).imm16 w h16]

/-! ## Empty slots -/

/-- The empty slots of page 1 are the listed ones and the two page bytes (30_encoding R97). -/
theorem page1Slot_eq_none_iff : ∀ op : Byte,
    page1Slot op = none ↔ op ∈ page1Empty ∨ op = Config.page2Byte ∨ op = Config.page3Byte := by
  simp only [← Option.isNone_iff_eq_none]
  decide

theorem page2Byte_notMem_page1Empty : Config.page2Byte ∉ page1Empty := by simp [page1Empty, Config.page2Byte]

theorem page3Byte_notMem_page1Empty : Config.page3Byte ∉ page1Empty := by simp [page1Empty, Config.page3Byte]

/-- In a filled slot only a post-byte or a register pair can be wrong. -/
theorem decodeOperand_ne_unknownOpcode (n : Nat) (bs : List Byte) (o : Operand) (op : Byte) :
    decodeOperand n bs o ≠ .error (.unknownOpcode op) := by
  cases o with
  | inh | byte | word => exact nofun
  | post f =>
    rw [decodeOperand, decodeIdx]
    split <;> exact nofun
  | pair f =>
    rw [decodeOperand]
    split <;> exact nofun

theorem decode_unknownOpcode_iff (bs : List Byte) (op : Byte) :
    decode bs = .error (.unknownOpcode op) ↔ byteAt bs 0 = op ∧ op ∈ page1Empty := by
  constructor
  · intro h
    cases hs : slotAt bs with
    | some e => exact absurd ((decode_of_slotAt hs).symm.trans h) (decodeOperand_ne_unknownOpcode _ _ _ _)
    | none =>
      obtain ⟨h2, he⟩ | ⟨h3, he⟩ | ⟨h2, h3, he⟩ := slotAt_none hs
      · rw [decode_emptyPage2 h2 he] at h
        cases h
      · rw [decode_emptyPage3 h3 he] at h
        cases h
      · rw [decode_emptyPage1 h2 h3 he] at h
        cases h
        exact ⟨rfl, by simpa [h2, h3] using (page1Slot_eq_none_iff _).1 he⟩
  · rintro ⟨rfl, hmem⟩
    exact decode_emptyPage1 (ne_of_mem_of_not_mem hmem page2Byte_notMem_page1Empty)
      (ne_of_mem_of_not_mem hmem page3Byte_notMem_page1Empty) ((page1Slot_eq_none_iff _).2 (.inl hmem))

/-- A page byte is decoded to its own constructor exactly before an empty slot of its page: any other such answer would
not be well-formed. -/
theorem decode_prefixPage2_iff (op : Byte) (rest : List Byte) :
    (∃ n, decode (0x10#8 :: op :: rest) = .ok (.prefixPage2 op, n)) ↔ op ∉ page2Filled :=
  ⟨fun ⟨_, h⟩ => (wellFormed_prefixPage2_iff op).1 (decode_carriesLast h).wf,
    fun h => ⟨2, decodesTo_prefixPage2 h rest⟩⟩

theorem decode_prefixPage3_iff (op : Byte) (rest : List Byte) :
    (∃ n, decode (0x11#8 :: op :: rest) = .ok (.prefixPage3 op, n)) ↔ op ∉ page3Filled :=
  ⟨fun ⟨_, h⟩ => (wellFormed_prefixPage3_iff op).1 (decode_carriesLast h).wf,
    fun h => ⟨2, decodesTo_prefixPage3 h rest⟩⟩

/-- Settles O3: the three kinds of empty slot, and a count over page 1. -/
theorem unknownOpcodes : Obligations.UnknownOpcodes :=
  ⟨decode_unknownOpcode_iff, rfl, rfl, fun op rest =>
    ⟨decode_prefixPage2_iff op rest, decode_prefixPage3_iff op rest⟩⟩

/-! ## Single words and page bytes -/

/-- Settles O7: each word by evaluating the decoder on it. -/
theorem sampleWords : Obligations.SampleWords := ⟨rfl, rfl, rfl, rfl, rfl, rfl, rfl, rfl⟩

/-- Settles O43: both constructors raise, and raising stops the machine with the report. -/
theorem pageBytesFault : Obligations.PageBytesFault := fun _ _ => ⟨rfl, rfl⟩

end Sys2Proof
end

section
/-! Effective addresses: what each form computes and leaves, and the operand of a memory form
(spec/40_effective_address.md R120 to R144). -/

namespace Sys2Proof.Machine

/-! ## Sums of addresses -/

/-- A word as its own number, mod 2^16. -/
theorem eq_ofNat_toNat (a : Word) : a = BitVec.ofNat 16 a.toNat := by
  rw [BitVec.ofNat_toNat, BitVec.setWidth_eq]

/-- A word plus a signed number, mod 2^16. -/
theorem add_ofInt (a : Word) (n : Int) : a + BitVec.ofInt 16 n = BitVec.ofInt 16 (a.toNat + n) := by
  rw [BitVec.ofInt_add, BitVec.ofInt_natCast, ← eq_ofNat_toNat]

/-- A word minus a signed number, mod 2^16. -/
theorem sub_ofInt (a : Word) (n : Int) : a - BitVec.ofInt 16 n = BitVec.ofInt 16 (a.toNat - n) := by
  rw [BitVec.sub_eq_add_neg, ← BitVec.ofInt_neg, add_ofInt, Int.sub_eq_add_neg]

/-! ## Operands in memory -/

/-- An 8-bit memory operand is the byte at the effective address (R125). -/
theorem operand8_mem_eq (m : MemMode) (st : State) : operand8 (.mem m) st = (readByte st (ea m st).1, (ea m st).2) := by
  rw [operand8, readByte_ea]

/-- A 16-bit memory operand is the word at the effective address (R126). -/
theorem operand16_mem_eq (m : MemMode) (st : State) :
    operand16 (.mem m) st = (readWord st (ea m st).1, (ea m st).2) := by
  rw [operand16, readWord_ea]

/-- Settles O11: a direct address joins DP and the operand byte, and an address computation leaves memory alone. -/
theorem operandModes : Obligations.OperandModes :=
  ⟨fun st dd _ => ⟨joinBytes_toNat st.dp dd, rfl, rfl⟩, operand8_mem_eq, operand16_mem_eq⟩

/-! ## Indexed addresses -/

/-- Settles O12: each address is the base register or PC plus a word or a sign-extended offset. -/
theorem indexedOffsets : Obligations.IndexedOffsets := fun r st o5 o8 o16 =>
  have accD : reg16 (baseReg r) st + reg16 .d st =
      BitVec.ofNat 16 ((reg16 (baseReg r) st).toNat + 256 * st.a.toNat + st.b.toNat) := by
    rw [add_eq_ofNat, reg16_d, joinBytes_toNat, Nat.add_assoc]
  ⟨congrArg (·, st) (add_sext5 _ o5), congrArg (·, st) (eq_ofNat_toNat _), congrArg (·, st) (add_sext8 _ st.b),
    congrArg (·, st) (add_sext8 _ st.a), congrArg (·, st) (add_sext8 _ o8), congrArg (·, st) (add_eq_ofNat _ o16),
    congrArg (·, st) accD, congrArg (·, st) (add_sext8 st.pc o8), congrArg (·, st) (add_eq_ofNat st.pc o16)⟩

/-- Auto-increment by any number: the old value, and the register moved up (R130, R131). -/
theorem postIncrement_eq (r : IndexReg) (n : Int) (st : State) :
    postIncrement r (BitVec.ofInt 16 n) st = (BitVec.ofNat 16 (reg16 (baseReg r) st).toNat,
      setReg16 (baseReg r) (BitVec.ofInt 16 ((reg16 (baseReg r) st).toNat + n)) st) := by
  rw [postIncrement, add_ofInt, ← eq_ofNat_toNat]

/-- Auto-decrement by any number: the new value, and the register moved down to it (R132, R133). -/
theorem preDecrement_eq (r : IndexReg) (n : Int) (st : State) :
    preDecrement r (BitVec.ofInt 16 n) st = (BitVec.ofInt 16 ((reg16 (baseReg r) st).toNat - n),
      setReg16 (baseReg r) (BitVec.ofInt 16 ((reg16 (baseReg r) st).toNat + -n)) st) := by
  rw [preDecrement, sub_ofInt, Int.sub_eq_add_neg]

/-- Settles O13: the four sub-modes are the two shared moves, by 1 and by 2. -/
theorem autoIncrement : Obligations.AutoIncrement := fun r st =>
  ⟨postIncrement_eq r 1 st, postIncrement_eq r 2 st, preDecrement_eq r 1 st, preDecrement_eq r 2 st⟩

/-- An indirect form reads its address at the plain form's, from the memory before (R142). -/
theorem indexedAddr_indirect (m : SubMode) (st : State) :
    indexedAddr (.complex m true) st =
      (readWord st (indexedAddr (.complex m false) st).1, (indexedAddr (.complex m false) st).2) :=
  congrArg (·, (indexedAddr (.complex m false) st).2) (readWord_congr (indexedAddr_mem (.complex m false) st) _)

/-- Settles O14: a word read is its two bytes joined. -/
theorem indirection : Obligations.Indirection := fun m st => by
  rw [indexedAddr_indirect]
  exact ⟨rfl, joinBytes_toNat _ _⟩

/-! ## The frame of an address computation -/

/-- At most one of X, Y, U and S is moved, by 1 or 2 up or down. -/
def MovesOneBase (st t : State) : Prop :=
  t = st ∨ ∃ (r : IndexReg) (d : Word), d ∈ [1#16, 2#16, 0xFFFF#16, 0xFFFE#16] ∧
    t = setReg16 (baseReg r) (reg16 (baseReg r) st + d) st

/-- Auto-increment adds its step. -/
theorem postIncrement_movesOneBase (r : IndexReg) {n : Word} (hn : n ∈ [1#16, 2#16]) (st : State) :
    MovesOneBase st (postIncrement r n st).2 :=
  .inr ⟨r, n, List.mem_append_left [0xFFFF#16, 0xFFFE#16] hn, rfl⟩

/-- Auto-decrement adds the negation of its step. -/
theorem preDecrement_movesOneBase (r : IndexReg) {n : Word} (hn : -n ∈ [0xFFFF#16, 0xFFFE#16]) (st : State) :
    MovesOneBase st (preDecrement r n st).2 :=
  .inr ⟨r, -n, List.mem_append_right [1#16, 2#16] hn, by rw [preDecrement, BitVec.sub_eq_add_neg]⟩

/-- Only the auto-increment and auto-decrement sub-modes move their base register. -/
theorem subModeAddr_movesOneBase (m : SubMode) (st : State) : MovesOneBase st (subModeAddr m st).2 := by
  cases m with
  | inc1 r | inc2 r => exact postIncrement_movesOneBase r (by decide) st
  | dec1 r | dec2 r => exact preDecrement_movesOneBase r (by decide) st
  | plain | accB | accA | off8 | off16 | accD | pc8 | pc16 => exact .inl rfl

theorem indexedAddr_movesOneBase (p : Indexed) (st : State) : MovesOneBase st (indexedAddr p st).2 := by
  cases p with
  | simple r o => exact .inl rfl
  | complex m i =>
    have hplain : MovesOneBase st (indexedAddr (.complex m false) st).2 := subModeAddr_movesOneBase m st
    cases i with
    | false => exact hplain
    | true => rw [indexedAddr_indirect]; exact hplain

/-- Settles O15: direct and extended modes move nothing. -/
theorem addressFrame : Obligations.AddressFrame := fun m st => by
  cases m with
  | dir dd => exact .inl rfl
  | ext a => exact .inl rfl
  | idx p => exact indexedAddr_movesOneBase p st

end Sys2Proof.Machine
end

section
/-! 16-bit additions, subtractions and compares, by the operations `aluD` and `cmp16` (spec/42_arith_16bit.md R200 to
R209). -/

namespace Sys2Proof.Machine

open Sys2Proof.Safety

/-- No operand form moves D. -/
theorem reg16_d_operand16 (m : Src16) (st : State) : reg16 .d (operand16 m st).2 = reg16 .d st := by
  rw [reg16_d, operand16_a, operand16_b, reg16_d]

/-- An ALU function into D takes D and CC as they were before the operand's address computation. -/
theorem aluD_eq (f : Word → Word → Byte → Alu 16) (m : Src16) (st : State) :
    aluD f m st = .next (setReg16 .d (f (reg16 .d st) (operand16 m st).1 st.cc).value
      (setCC (f (reg16 .d st) (operand16 m st).1 st.cc).cc (operand16 m st).2)) := by
  rw [aluD, reg16_d_operand16, operand16_cc]

/-- An instruction whose meaning is `cmp16` writes the flags of the subtraction (R205 to R209). -/
theorem compare16Result_of_exec {mk : Src16 → Instr} {r : Reg16} (h : ∀ m st, exec (mk m) st = cmp16 r m st) :
    Compare16Result mk r := fun m st => by
  rw [h, cmp16, operand16_cc]
  exact ⟨_, _, rfl, sub16_spec _ _ _⟩

/-- Settles O21, by the specifications of `add16` and `sub16`. -/
theorem arith16 : Obligations.Arith16 :=
  ⟨fun m st => ⟨⟨_, _, aluD_eq add16 m st, add16_spec _ _ _⟩, ⟨_, _, aluD_eq sub16 m st, sub16_spec _ _ _⟩⟩,
    compare16Result_of_exec fun _ _ => rfl, compare16Result_of_exec fun _ _ => rfl,
    compare16Result_of_exec fun _ _ => rfl, compare16Result_of_exec fun _ _ => rfl,
    compare16Result_of_exec fun _ _ => rfl⟩

end Sys2Proof.Machine
end

section
/-! Encoding a decoded post-byte (spec/40_effective_address.md R127, R146). -/

namespace Sys2Proof

open Sys2Proof.Machine

theorem selOf_indexRegOf : ∀ sel : BitVec 2, selOf (indexRegOf sel) = sel := by decide

/-- A simple post-byte is made up of its fields (R128). -/
theorem simpleByte_of_fields : ∀ pb : Byte, pb.getLsbD 7 = false →
    ((0#1 ++ pb.extractLsb' 5 2 : BitVec 3) ++ pb.extractLsb' 0 5 : BitVec 8) = pb := by decide

/-- A complex post-byte is made up of its fields (30_encoding R90). -/
theorem complexByte_of_fields : ∀ pb : Byte, pb.getLsbD 7 = true →
    complexByte (pb.extractLsb' 5 2) (pb.getLsbD 4) (pb.extractLsb' 0 4) = pb := by decide

/-- The register field of a post-byte that is no PC-relative one with a non-zero field (R127). -/
theorem pcRelative_selector : ∀ pb : Byte, pb.getLsbD 7 = true →
    (pb.toNat / 128 = 1 ∧ (pb.toNat % 16 = 0xC ∨ pb.toNat % 16 = 0xD) → pb.toNat / 32 % 4 = 0) →
    pb.extractLsb' 0 4 ∈ [0xC#4, 0xD#4] → pb.extractLsb' 5 2 = 0#2 := by decide

/-- A decoded sub-mode is encoded by its nibble and the offset bytes it read; the PC-relative ones with selector 0. -/
theorem encodeComplex_decodeSubMode {m : BitVec 4} {r : IndexReg} {o1 o2 : Byte} {sm : SubMode} {n : Nat} (i : Bool)
    (h : decodeSubMode m r o1 o2 = some (sm, n)) (hpc : m ∈ [0xC#4, 0xD#4] → selOf r = 0#2) :
    encodeComplex i sm = complexByte (selOf r) i m :: [o1, o2].take n := by
  obtain hm | hm | hm | hm := subMode_kinds m <;>
    simp only [undefinedNibbles, List.mem_cons, List.not_mem_nil, or_false] at hm
  · obtain rfl | rfl | rfl | rfl := hm <;> cases h
  · obtain rfl | rfl | rfl | rfl | rfl | rfl | rfl | rfl := hm <;> cases h <;> rfl
  · obtain rfl | rfl := hm <;> cases h
    · rfl
    · rw [hpc (by decide)]; rfl
  · obtain rfl | rfl := hm <;> cases h
    · rw [encodeComplex, hiByte_joinBytes, loByte_joinBytes]; rfl
    · rw [encodeComplex, hiByte_joinBytes, loByte_joinBytes, hpc (by decide)]; rfl

/-- Settles O5: a post-byte is made up of its fields, and so is what the encoder writes for them. -/
theorem encodeDecodePostByte : Obligations.EncodeDecodePostByte := by
  intro pb o1 o2 p n h hpc
  cases h7 : pb.getLsbD 7 with
  | false =>
    rw [decodeIndexed, h7] at h
    cases h
    rw [encodeIndexed, selOf_indexRegOf, simpleByte_of_fields pb h7]
    rfl
  | true =>
    rw [← complexByte_of_fields pb h7, decodeIndexed_complexByte, Option.map_eq_some_iff] at h
    obtain ⟨⟨sm, k⟩, hsub, he⟩ := h
    cases he
    have henc := encodeComplex_decodeSubMode (pb.getLsbD 4) hsub fun hm => by
      rw [selOf_indexRegOf, pcRelative_selector pb h7 hpc hm]
    rw [encodeIndexed, henc, selOf_indexRegOf, complexByte_of_fields pb h7]

end Sys2Proof
end

section
/-! 8-bit arithmetic and logic, by the operations `alu8` and `test8`, and MUL and DAA
(spec/41_arith_logic_8bit.md R150 to R152, R160 to R179). -/

namespace Sys2Proof.Machine

open Sys2Proof.Safety

/-! ## Two operands -/

/-- An ALU function into an 8-bit register takes the register and CC as they were before the operand's address
computation. -/
theorem alu8_eq (r : Reg8) (f : Byte → Byte → Byte → Alu 8) (m : Src8) (st : State) :
    alu8 r f m st = .next (setReg8 r (f (reg8 r st) (operand8 m st).1 st.cc).value
      (setCC (f (reg8 r st) (operand8 m st).1 st.cc).cc (operand8 m st).2)) := by
  rw [alu8, reg8_operand8, operand8_cc]

/-- The same when only the flags are kept. -/
theorem test8_eq (r : Reg8) (f : Byte → Byte → Byte → Alu 8) (m : Src8) (st : State) :
    test8 r f m st = .next (setCC (f (reg8 r st) (operand8 m st).1 st.cc).cc (operand8 m st).2) := by
  rw [test8, reg8_operand8, operand8_cc]

section Shapes

variable {mk : Src8 → Instr} {r : Reg8} {withCarry : Bool} {f : Bool → Bool → Bool} {op : Byte → Byte → Byte}

/-- An instruction whose meaning is `alu8` of `add8` adds (R160 to R163). -/
theorem addResult_of_exec
    (h : ∀ m st, exec (mk m) st = alu8 r (fun a m cc => add8 a m (withCarry && getFlag .c cc) cc) m st) :
    AddResult mk r withCarry := fun m st =>
  ⟨_, _, (h m st).trans (alu8_eq r _ m st), add8_spec _ _ _ _⟩

/-- An instruction whose meaning is `alu8` of `sub8` subtracts (R164 to R167). -/
theorem subResult_of_exec
    (h : ∀ m st, exec (mk m) st = alu8 r (fun a m cc => sub8 a m (withCarry && getFlag .c cc) cc) m st) :
    SubResult mk r withCarry := fun m st =>
  ⟨_, _, (h m st).trans (alu8_eq r _ m st), sub8_spec _ _ _ _⟩

/-- An instruction whose meaning is `test8` of `sub8` compares (R168, R169). -/
theorem compareResult_of_exec
    (h : ∀ m st, exec (mk m) st = test8 r (fun a m cc => sub8 a m false cc) m st) : CompareResult mk r := fun m st =>
  ⟨_, _, (h m st).trans (test8_eq r _ m st), sub8_spec _ _ _ _⟩

/-- An instruction whose meaning is `alu8` of `logic8` combines bit by bit, as its operation does (R170, R171, R174 to
R177). -/
theorem logicResult_of_exec (hop : ∀ a m i, (op a m).getLsbD i = f (a.getLsbD i) (m.getLsbD i))
    (h : ∀ m st, exec (mk m) st = alu8 r (fun a m cc => logic8 (op a m) cc) m st) : LogicResult mk r f := fun m st =>
  have ⟨_, hflags⟩ := logic8_spec (op (reg8 r st) (operand8 m st).1) st.cc
  ⟨_, _, (h m st).trans (alu8_eq r _ m st), fun i _ => hop _ _ i, hflags⟩

/-- An instruction whose meaning is `test8` of `logic8` of a conjunction tests bits (R172, R173). -/
theorem bitTestResult_of_exec
    (h : ∀ m st, exec (mk m) st = test8 r (fun a m cc => logic8 (a &&& m) cc) m st) : BitTestResult mk r := fun m st =>
  have ⟨_, hflags⟩ := logic8_spec (reg8 r st &&& (operand8 m st).1) st.cc
  ⟨_, _, (h m st).trans (test8_eq r _ m st), fun _ _ => BitVec.getLsbD_and, hflags⟩

end Shapes

/-! ## Exact results -/

section Exact

variable {w : Nat} {a b r : BitVec w} {c : Bool} {cc : Byte}

/-- A sum mod 2^w is the exact one, or 2^w less. -/
theorem sum_eq_or_eq_add_of_mod (h : (a.toNat + b.toNat + c.toNat) % 2 ^ w = r.toNat) :
    a.toNat + b.toNat + c.toNat = r.toNat ∨ a.toNat + b.toNat + c.toNat = r.toNat + 2 ^ w := by
  have ha := a.isLt
  have hb := b.isLt
  have hc := c.toNat_le
  by_cases hlt : a.toNat + b.toNat + c.toNat < 2 ^ w
  · exact .inl (by rw [← h, Nat.mod_eq_of_lt hlt])
  · rw [Nat.mod_eq_sub_mod (by omega), Nat.mod_eq_of_lt (by omega)] at h
    omega

/-- A word below half its range reads as itself, any other as 2^w less. -/
theorem toInt_cases (x : BitVec w) :
    (2 * x.toNat < 2 ^ w ∧ x.toInt = x.toNat) ∨ (2 ^ w ≤ 2 * x.toNat ∧ x.toInt = x.toNat - (2 ^ w : Nat)) := by
  rw [BitVec.toInt_eq_toNat_cond]
  split <;> omega

/-- A signed sum mod 2^w is the exact one, or 2^w off. -/
theorem signedSum_cases_of_mod (h : (a.toNat + b.toNat + c.toNat) % 2 ^ w = r.toNat) :
    a.toInt + b.toInt + c.toNat = r.toInt ∨ a.toInt + b.toInt + c.toNat = r.toInt + (2 ^ w : Nat) ∨
      a.toInt + b.toInt + c.toNat = r.toInt - (2 ^ w : Nat) := by
  have hsum := sum_eq_or_eq_add_of_mod h
  have ha := toInt_cases a
  have hb := toInt_cases b
  have hr := toInt_cases r
  have hpow := Nat.two_pow_pos w
  have hc := c.toNat_le
  omega

/-- The sign bit says that the signed reading is negative. -/
theorem msb_eq_decide_toInt_neg (x : BitVec w) : x.msb = decide (x.toInt < 0) := by
  rw [Bool.eq_iff_iff, decide_eq_true_iff, BitVec.toInt_neg_iff]
  exact BitVec.msb_eq_true_iff_two_mul_ge

/-- The sign rule of a sum says that the exact signed sum is not the result (41_arith_logic_8bit R154). -/
theorem signRule_eq_of_mod (hw : 0 < w) (h : (a.toNat + b.toNat + c.toNat) % 2 ^ w = r.toNat) :
    (a.msb == b.msb && r.msb != a.msb) = decide (a.toInt + b.toInt + c.toNat ≠ r.toInt) := by
  have hsum := signedSum_cases_of_mod h
  have hpow : ((2 ^ w : Nat) : Int) = 2 * 2 ^ (w - 1) := by
    rw [← Nat.two_pow_pred_mul_two hw, Int.natCast_mul, Int.natCast_pow, Int.mul_comm]; rfl
  have ha : -2 ^ (w - 1) ≤ a.toInt ∧ a.toInt < 2 ^ (w - 1) := ⟨a.le_toInt, a.toInt_lt⟩
  have hb : -2 ^ (w - 1) ≤ b.toInt ∧ b.toInt < 2 ^ (w - 1) := ⟨b.le_toInt, b.toInt_lt⟩
  have hr : -2 ^ (w - 1) ≤ r.toInt ∧ r.toInt < 2 ^ (w - 1) := ⟨r.le_toInt, r.toInt_lt⟩
  have hc := c.toNat_le
  rw [Bool.eq_iff_iff]
  simp only [msb_eq_decide_toInt_neg, Bool.and_eq_true, beq_iff_eq, bne_iff_ne, ne_eq, decide_eq_decide,
    decide_eq_true_iff]
  omega

/-- V of an addition: the exact signed sum is not the result. -/
theorem v_of_sumOf (hw : 0 < w) (h : SumOf a b c r cc) :
    getFlag .v cc = decide (a.toInt + b.toInt + c.toNat ≠ r.toInt) := by
  obtain ⟨hval, -, hv, -⟩ := h
  rw [hv, signRule_eq_of_mod hw hval.symm]

/-- C of an addition: the exact unsigned sum is not the result. -/
theorem c_of_sumOf (h : SumOf a b c r cc) : getFlag .c cc = decide (a.toNat + b.toNat + c.toNat ≠ r.toNat) := by
  obtain ⟨hval, hc, -⟩ := h
  rw [hc, decide_eq_decide, hval, ne_comm, Ne, Nat.mod_eq_iff_lt (Nat.ne_of_gt (Nat.two_pow_pos w)), Nat.not_lt]

/-- V of a subtraction: the exact signed difference is not the result. The minuend is the sum of the result, the
subtrahend and the borrow, and the two sign rules are the same. -/
theorem v_of_differenceOf (hw : 0 < w) (h : DifferenceOf a b c r cc) :
    getFlag .v cc = decide (a.toInt - b.toInt - c.toNat ≠ r.toInt) := by
  obtain ⟨hval, -, hv, -⟩ := h
  have hrule : (a.msb != b.msb && r.msb != a.msb) = (r.msb == b.msb && a.msb != r.msb) := by
    cases a.msb <;> cases b.msb <;> cases r.msb <;> rfl
  rw [hv, hrule, signRule_eq_of_mod hw hval, decide_eq_decide]
  omega

/-- C of a subtraction is the borrow. -/
theorem c_of_differenceOf (h : DifferenceOf a b c r cc) : getFlag .c cc = decide (a.toNat < b.toNat + c.toNat) :=
  have ⟨_, hc, _⟩ := h; hc

end Exact

/-! ## MUL -/

/-- MUL writes the product to D and its flags to CC (R178). -/
theorem exec_mul (st : State) : exec .mul st = .next { st with
    a := hiByte (mul8 st.a st.b st.cc).value, b := loByte (mul8 st.a st.b st.cc).value
    cc := (mul8 st.a st.b st.cc).cc } := rfl

/-! ## DAA -/

/-- DAA corrects the low nibble: it is above 9, or H is set (R179). -/
abbrev LowTest (a cc : Byte) : Prop := 9 < a.toNat % 16 ∨ getFlag .h cc = true

/-- DAA corrects the high nibble: A is above 0x99, or C is set (R179). -/
abbrev HighTest (a cc : Byte) : Prop := 0x99 < a.toNat ∨ getFlag .c cc = true

/-- DAA writes the corrected A and its flags (R179). -/
theorem exec_daa (st : State) :
    exec .daa st = .next { st with a := (daa8 st.a st.cc).value, cc := (daa8 st.a st.cc).cc } := rfl

/-- The result of DAA: each test adds its correction. -/
theorem daa8_toNat (a cc : Byte) : (daa8 a cc).value.toNat =
    (a.toNat + (if LowTest a cc then 0x06 else 0) + (if HighTest a cc then 0x60 else 0)) % 256 := by
  simp [daa8]

/-- C after DAA is set by the high test, of which the old C is a part. -/
theorem daa8_c (a cc : Byte) : getFlag .c (daa8 a cc).cc = decide (HighTest a cc) := by
  by_cases hc : getFlag .c cc = true <;> simp [daa8, getFlag_setNZ, hc]

/-- N and Z after DAA come from the result. -/
theorem daa8_nz (a cc : Byte) : NZ (daa8 a cc).value (daa8 a cc).cc :=
  have ⟨hnz, _⟩ := setNZ_spec (daa8 a cc).value _; hnz

/-- DAA keeps V besides the flags of `daa8_keeps`. -/
theorem daa8_keeps_v (a cc : Byte) : Keeps [.e, .f, .h, .i, .v] cc (daa8 a cc).cc := by
  simp [Keeps, daa8, getFlag_setFlag, getFlag_setNZ]

/-- The four cases of DAA: what A gets for each answer of the two tests. -/
theorem daa8_cases (a cc : Byte) :
    (LowTest a cc ∧ HighTest a cc → (daa8 a cc).value.toNat = (a.toNat + 0x66) % 256) ∧
    (LowTest a cc ∧ ¬HighTest a cc → (daa8 a cc).value.toNat = (a.toNat + 0x06) % 256) ∧
    (¬LowTest a cc ∧ HighTest a cc → (daa8 a cc).value.toNat = (a.toNat + 0x60) % 256) ∧
    (¬LowTest a cc ∧ ¬HighTest a cc → (daa8 a cc).value = a) := by
  refine ⟨fun ⟨hl, hh⟩ => ?_, fun ⟨hl, hh⟩ => ?_, fun ⟨hl, hh⟩ => ?_, fun ⟨hl, hh⟩ => BitVec.eq_of_toNat_eq ?_⟩
  all_goals rw [daa8_toNat]
  · rw [if_pos hl, if_pos hh]
  · rw [if_pos hl, if_neg hh]
  · rw [if_neg hl, if_pos hh]
  · rw [if_neg hl, if_neg hh, Nat.add_zero, Nat.mod_eq_of_lt a.isLt]

end Sys2Proof.Machine
end

section
/-! The statements about 8-bit arithmetic and logic, in a namespace of their own: three of them have the names of ALU
functions of the model. -/

namespace Sys2Proof.Arith8

open Sys2Proof.Machine

/-- Settles O16, by the specification of `add8`. -/
theorem add8 : Obligations.Add8 :=
  ⟨addResult_of_exec fun _ _ => rfl, addResult_of_exec fun _ _ => rfl, addResult_of_exec fun _ _ => rfl,
    addResult_of_exec fun _ _ => rfl⟩

/-- Settles O17, by the specification of `sub8`. -/
theorem sub8 : Obligations.Sub8 :=
  ⟨subResult_of_exec fun _ _ => rfl, subResult_of_exec fun _ _ => rfl, subResult_of_exec fun _ _ => rfl,
    subResult_of_exec fun _ _ => rfl, compareResult_of_exec fun _ _ => rfl, compareResult_of_exec fun _ _ => rfl⟩

/-- Settles O18: the three operations of a byte act bit by bit. -/
theorem logic8 : Obligations.Logic8 :=
  have hand (a m : Byte) (i : Nat) : (a &&& m).getLsbD i = and (a.getLsbD i) (m.getLsbD i) := BitVec.getLsbD_and
  have hxor (a m : Byte) (i : Nat) : (a ^^^ m).getLsbD i = xor (a.getLsbD i) (m.getLsbD i) := BitVec.getLsbD_xor
  have hor (a m : Byte) (i : Nat) : (a ||| m).getLsbD i = or (a.getLsbD i) (m.getLsbD i) := BitVec.getLsbD_or
  ⟨logicResult_of_exec hand fun _ _ => rfl, logicResult_of_exec hand fun _ _ => rfl,
    logicResult_of_exec hxor fun _ _ => rfl, logicResult_of_exec hxor fun _ _ => rfl,
    logicResult_of_exec hor fun _ _ => rfl, logicResult_of_exec hor fun _ _ => rfl,
    bitTestResult_of_exec fun _ _ => rfl, bitTestResult_of_exec fun _ _ => rfl⟩

/-- Settles O19, by the specification of `mul8`. -/
theorem multiply : Obligations.Multiply := fun st => ⟨_, _, exec_mul st, mul8_spec st.a st.b st.cc⟩

/-- Settles O20: the corrections by the four cases, and C by the high test. -/
theorem decimalAdjust : Obligations.DecimalAdjust := fun st =>
  have ⟨hboth, hlow, hhigh, hnone⟩ := daa8_cases st.a st.cc
  ⟨_, _, exec_daa st,
    ⟨hboth, hlow, hhigh, hnone, fun h => by rw [daa8_c, decide_eq_true h], fun h => by
      rw [daa8_c, decide_eq_false h, eq_false_of_ne_true fun hc => h (.inr hc)]⟩,
    daa8_nz st.a st.cc, daa8_keeps_v st.a st.cc⟩

/-- Settles O22: all four functions meet the relation of a sum or of a difference. -/
theorem overflowIsSigned : Obligations.OverflowIsSigned := fun a b p q c cc => by
  have ⟨hadd8, _⟩ := add8_spec a b c cc
  have ⟨hsub8, _⟩ := sub8_spec a b c cc
  have ⟨hadd16, _⟩ := add16_spec p q cc
  have ⟨hsub16, _⟩ := sub16_spec p q cc
  refine ⟨v_of_sumOf (by decide) hadd8, v_of_differenceOf (by decide) hsub8, ?_, ?_, c_of_sumOf hadd8,
    c_of_differenceOf hsub8, c_of_sumOf hadd16, c_of_differenceOf hsub16⟩
  · simpa using v_of_sumOf (by decide) hadd16
  · simpa using v_of_differenceOf (by decide) hsub16

end Sys2Proof.Arith8
end

section
/-! Single-operand instructions on A, on B and on a memory byte, by the operations `unaryAcc` and `unaryMem`
(spec/43_unary_shift.md R220 to R231, R259 to R261). -/

namespace Sys2Proof.Machine

open Sys2Proof.Safety

/-! ## Writing a byte at the effective address -/

section Write

variable {m : MemMode} {st : State}

/-- In RAM, an instruction that writes CC and then the byte at its address changes nothing else but what the address
computation moved (20_memory R54). -/
theorem writeByte_ea_ram (h : (ea m st).1.toNat < 0x8000) (v cc' : Byte) :
    ∃ t, writeByte (ea m st).1 v (setCC cc' (ea m st).2) = .next t ∧ t = { (ea m st).2 with cc := cc', mem := t.mem } ∧
      readByte t (ea m st).1 = v ∧ MemKept [(ea m st).1] st t :=
  have hea : MemKept [] st (setCC cc' (ea m st).2) := fun a _ => readByte_ea m st a
  ⟨_, writeByte_ram h v _, rfl, readByte_storeByte_same _ v _, memKept_trans hea (memKept_storeByte _ v _)⟩

/-- In ROM it faults with CC written (20_memory R54; R231). -/
theorem writeByte_ea_rom (h : 0x8000 ≤ (ea m st).1.toNat) (v cc' : Byte) :
    writeByte (ea m st).1 v (setCC cc' (ea m st).2) = romFault (ea m st).1 { (ea m st).2 with cc := cc' } :=
  writeByte_rom h v _

end Write

/-! ## Operands -/

/-- A function of a memory byte takes the byte and CC as they were before the address computation. -/
theorem unaryMem_eq (g : Byte → Byte → Alu 8) (m : MemMode) (st : State) :
    unaryMem g m st = writeByte (ea m st).1 (g (readByte st (ea m st).1) st.cc).value
      (setCC (g (readByte st (ea m st).1) st.cc).cc (ea m st).2) := by
  rw [unaryMem, readByte_ea, ea_cc]

/-- So does TST, which writes the flags only (R224). -/
theorem execTst_eq (m : MemMode) (st : State) :
    execTst m st = .next (setCC (tst8 (readByte st (ea m st).1) st.cc).cc (ea m st).2) := by
  rw [execTst, readByte_ea, ea_cc]

/-- CLR of a memory byte reads nothing, and a read would change nothing (20_memory R52; R262). -/
theorem execClr_eq (m : MemMode) (st : State) : execClr m st = unaryMem (fun _ cc => clr8 cc) m st := rfl

/-! ## Shapes of results -/

section Shapes

variable {f : Byte → Byte → Byte → Byte → Prop} {g : Byte → Byte → Alu 8}

/-- An instruction whose meaning is `unaryAcc` of a function that meets a relation. -/
theorem accResult_of_exec {i : Instr} {r : Reg8} (hg : ∀ b cc, f b cc (g b cc).value (g b cc).cc)
    (h : ∀ st, exec i st = unaryAcc r g st) : AccResult i r f := fun st => ⟨_, _, h st, hg _ _⟩

/-- An instruction whose meaning is `unaryMem` of a function that meets a relation. -/
theorem memResult_of_exec {mk : MemMode → Instr} (hg : ∀ b cc, f b cc (g b cc).value (g b cc).cc)
    (h : ∀ m st, exec (mk m) st = unaryMem g m st) : MemResult mk f := fun m st => by
  rw [h, unaryMem_eq]
  exact ⟨_, _, hg _ _, fun hram => writeByte_ea_ram hram _ _, fun hrom => writeByte_ea_rom hrom _ _⟩

end Shapes

/-! ## The statements -/

/-- Settles O23: each instruction is `unaryAcc` of its ALU function, by that function's specification. -/
theorem unaryAccumulator : Obligations.UnaryAccumulator :=
  ⟨accResult_of_exec neg8_spec fun _ => rfl, accResult_of_exec neg8_spec fun _ => rfl,
    accResult_of_exec com8_spec fun _ => rfl, accResult_of_exec com8_spec fun _ => rfl,
    accResult_of_exec inc8_spec fun _ => rfl, accResult_of_exec inc8_spec fun _ => rfl,
    accResult_of_exec dec8_spec fun _ => rfl, accResult_of_exec dec8_spec fun _ => rfl,
    accResult_of_exec clr8_spec fun _ => rfl, accResult_of_exec clr8_spec fun _ => rfl,
    accResult_of_exec asl8_spec fun _ => rfl, accResult_of_exec asl8_spec fun _ => rfl,
    accResult_of_exec asr8_spec fun _ => rfl, accResult_of_exec asr8_spec fun _ => rfl,
    accResult_of_exec lsr8_spec fun _ => rfl, accResult_of_exec lsr8_spec fun _ => rfl,
    accResult_of_exec rol8_spec fun _ => rfl, accResult_of_exec rol8_spec fun _ => rfl,
    accResult_of_exec ror8_spec fun _ => rfl, accResult_of_exec ror8_spec fun _ => rfl⟩

/-- Settles O24: each instruction is `unaryMem` of the same ALU functions, CLR by `execClr_eq`. -/
theorem unaryMemory : Obligations.UnaryMemory :=
  ⟨memResult_of_exec neg8_spec fun _ _ => rfl, memResult_of_exec com8_spec fun _ _ => rfl,
    memResult_of_exec inc8_spec fun _ _ => rfl, memResult_of_exec dec8_spec fun _ _ => rfl,
    memResult_of_exec clr8_spec execClr_eq, memResult_of_exec asl8_spec fun _ _ => rfl,
    memResult_of_exec asr8_spec fun _ _ => rfl, memResult_of_exec lsr8_spec fun _ _ => rfl,
    memResult_of_exec rol8_spec fun _ _ => rfl, memResult_of_exec ror8_spec fun _ _ => rfl⟩

/-- Settles O25, by the specification of `tst8`: no form writes more than CC after its address computation. -/
theorem test : Obligations.Test := fun st =>
  ⟨⟨_, rfl, tst8_spec st.a st.cc⟩, ⟨_, rfl, tst8_spec st.b st.cc⟩, fun m => ⟨_, execTst_eq m st, tst8_spec _ st.cc⟩⟩

end Sys2Proof.Machine
end

section
/-! Loads, stores and load-effective-address, by the operations `load8`, `load16`, `store8`, `store16`, `leaFlags` and
`leaPlain` (spec/44_load_store_lea.md R270 to R289). -/

namespace Sys2Proof.Machine

open Sys2Proof.Safety

/-! ## Writing a word at the effective address -/

/-- Computing an address and writing CC changes no byte of memory. -/
theorem memKept_setCC_ea (m : MemMode) (st : State) (cc' : Byte) : MemKept [] st (setCC cc' (ea m st).2) :=
  fun a _ => readByte_ea m st a

section Write

variable {m : MemMode} {st : State}

/-- With both bytes in RAM, an instruction that writes CC and then the word at its address changes nothing else but what
the address computation moved (20_memory R56). -/
theorem writeWord_ea_ram (h : (ea m st).1.toNat < 0x7FFF) (v : Word) (cc' : Byte) :
    ∃ t, writeWord (ea m st).1 v (setCC cc' (ea m st).2) = .next t ∧ t = { (ea m st).2 with cc := cc', mem := t.mem } ∧
      readByte t (ea m st).1 = hiByte v ∧ readByte t ((ea m st).1 + 1) = loByte v ∧
      MemKept [(ea m st).1, (ea m st).1 + 1] st t :=
  ⟨_, writeWord_ram h v _, rfl, readByte_storeWord_high _ v _, readByte_storeWord_low _ v _,
    memKept_trans (memKept_setCC_ea m st cc') (memKept_storeWord _ v _)⟩

/-- At 0x7FFF the high byte is stored, and the low byte faults at 0x8000 (20_memory R56; R270). -/
theorem writeWord_ea_edge (h : (ea m st).1.toNat = 0x7FFF) (v : Word) (cc' : Byte) :
    ∃ t, writeWord (ea m st).1 v (setCC cc' (ea m st).2) = romFault 0x8000#16 t ∧
      t = { (ea m st).2 with cc := cc', mem := t.mem } ∧ readByte t 0x7FFF#16 = hiByte v ∧ MemKept [0x7FFF#16] st t := by
  have hedge : (ea m st).1 = 0x7FFF#16 := BitVec.eq_of_toNat_eq h
  rw [writeWord_edge h, hedge]
  exact ⟨_, rfl, rfl, readByte_storeByte_same _ _ _,
    memKept_trans (memKept_setCC_ea m st cc') (memKept_storeByte _ _ _)⟩

/-- In ROM it faults at the first byte with CC written (20_memory R54, R56). -/
theorem writeWord_ea_rom (h : 0x8000 ≤ (ea m st).1.toNat) (v : Word) (cc' : Byte) :
    writeWord (ea m st).1 v (setCC cc' (ea m st).2) = romFault (ea m st).1 { (ea m st).2 with cc := cc' } :=
  writeWord_rom h v _

end Write

/-! ## Shapes of results -/

/-- An instruction whose meaning is `load8` takes N and Z from its operand (R271, R272). -/
theorem load8Result_of_exec {mk : Src8 → Instr} {r : Reg8} (h : ∀ m st, exec (mk m) st = load8 r m st) :
    Load8Result mk r := fun m st => by
  rw [h, load8, operand8_cc]
  exact ⟨_, rfl, setNZ_spec _ _⟩

/-- An instruction whose meaning is `load16` takes N and Z from its operand (R273 to R277). -/
theorem load16Result_of_exec {mk : Src16 → Instr} {r : Reg16} (h : ∀ m st, exec (mk m) st = load16 r m st) :
    Load16Result mk r := fun m st => by
  rw [h, load16, operand16_cc]
  exact ⟨_, rfl, setNZ_spec _ _⟩

/-- An instruction whose meaning is `store8` stores the register, which no address computation moves (R278, R279). -/
theorem store8Result_of_exec {mk : MemMode → Instr} {r : Reg8} (h : ∀ m st, exec (mk m) st = store8 r m st) :
    Store8Result mk r := fun m st => by
  obtain ⟨hnz, hkeeps⟩ := setNZ_spec (reg8 r st) st.cc
  rw [h, store8, reg8_ea, ea_cc]
  exact ⟨_, hnz, hkeeps, fun hram => writeByte_ea_ram hram _ _, fun hrom => writeByte_ea_rom hrom _ _⟩

/-- An instruction whose meaning is `store16` stores the register as the address computation left it (R280 to R284). -/
theorem store16Result_of_exec {mk : MemMode → Instr} {r : Reg16} (h : ∀ m st, exec (mk m) st = store16 r m st) :
    Store16Result mk r := fun m st => by
  obtain ⟨hnz, hkeeps⟩ := setNZ_spec (reg16 r (ea m st).2) st.cc
  rw [h, store16, ea_cc]
  exact ⟨_, hnz, hkeeps, fun hram => writeWord_ea_ram hram _ _, fun hedge => writeWord_ea_edge hedge _ _,
    fun hrom => writeWord_ea_rom hrom _ _⟩

/-- An instruction whose meaning is `leaFlags` takes N and Z from its address (R285, R286). -/
theorem leaFlagsResult_of_exec {mk : Indexed → Instr} {r : Reg16} (h : ∀ p st, exec (mk p) st = leaFlags r p st) :
    LeaFlagsResult mk r := fun p st => by
  rw [h, leaFlags, indexedAddr_cc]
  exact ⟨_, rfl, setNZ_spec _ _⟩

/-! ## The statements -/

/-- Settles O26: each load is `load8` or `load16` of its register, and `setNZ` keeps V and C. -/
theorem loads : Obligations.Loads :=
  ⟨load8Result_of_exec fun _ _ => rfl, load8Result_of_exec fun _ _ => rfl, load16Result_of_exec fun _ _ => rfl,
    load16Result_of_exec fun _ _ => rfl, load16Result_of_exec fun _ _ => rfl, load16Result_of_exec fun _ _ => rfl,
    load16Result_of_exec fun _ _ => rfl⟩

/-- Settles O27: each store is `store8` or `store16` of its register, and the write at its address is one of RAM, of ROM,
or of a word across the boundary. -/
theorem stores : Obligations.Stores :=
  ⟨store8Result_of_exec fun _ _ => rfl, store8Result_of_exec fun _ _ => rfl, store16Result_of_exec fun _ _ => rfl,
    store16Result_of_exec fun _ _ => rfl, store16Result_of_exec fun _ _ => rfl, store16Result_of_exec fun _ _ => rfl,
    store16Result_of_exec fun _ _ => rfl⟩

/-- Settles O28: LEAX and LEAY are `leaFlags` of their register, LEAS and LEAU `leaPlain`, which writes no CC at all. -/
theorem loadAddress : Obligations.LoadAddress :=
  ⟨leaFlagsResult_of_exec fun _ _ => rfl, leaFlagsResult_of_exec fun _ _ => rfl, fun _ _ => rfl, fun _ _ => rfl⟩

end Sys2Proof.Machine
end

section
/-! Register pairs: the two codes of a TFR or EXG post-byte (spec/45_transfer_stack.md R304, R305). -/

namespace Sys2Proof

open Sys2Proof.Machine Sys2Proof.Safety

/-! ## Register codes -/

/-- The code of the first register: the high nibble of a REGPAIR post-byte (30_encoding R93). -/
def firstCode (pb : Byte) : BitVec 4 := pb.extractLsb' 4 4

/-- The code of the second register: the low nibble. -/
def secondCode (pb : Byte) : BitVec 4 := pb.extractLsb' 0 4

theorem firstCode_eq_ofNat (pb : Byte) : firstCode pb = BitVec.ofNat 4 (pb.toNat / 16) :=
  congrArg (BitVec.ofNat 4) (Nat.shiftRight_eq_div_pow pb.toNat 4)

theorem firstCode_toNat (pb : Byte) : (firstCode pb).toNat = pb.toNat / 16 := by
  rw [firstCode_eq_ofNat, BitVec.toNat_ofNat]
  omega

theorem secondCode_toNat (pb : Byte) : (secondCode pb).toNat = pb.toNat % 16 := BitVec.extractLsb'_toNat 0 4 pb

theorem secondCode_eq_ofNat (pb : Byte) : secondCode pb = BitVec.ofNat 4 (pb.toNat % 16) :=
  BitVec.eq_of_toNat_eq (by rw [secondCode_toNat, BitVec.toNat_ofNat, Nat.mod_mod])

theorem reg16Of_isSome : ∀ c : BitVec 4, (reg16Of c).isSome = decide (c.toNat ≤ 5) := by decide

theorem reg8Of_isSome : ∀ c : BitVec 4, (reg8Of c).isSome = (decide (8 ≤ c.toNat) && decide (c.toNat ≤ 11)) := by
  decide

/-- A code names the register whose code it is. -/
theorem code16_of_reg16Of : ∀ (c : BitVec 4), ∀ r ∈ reg16Of c, code16 r = c := by decide

theorem code8_of_reg8Of : ∀ (c : BitVec 4), ∀ r ∈ reg8Of c, code8 r = c := by decide

/-! ## Post-bytes -/

/-- Two registers, where both codes name one. -/
def pairOf {R : Type} (mk : R → R → RegPair) : Option R → Option R → Option RegPair
  | some r1, some r2 => some (mk r1 r2)
  | _, _ => none

theorem pairOf_isSome {R : Type} (mk : R → R → RegPair) (o1 o2 : Option R) :
    (pairOf mk o1 o2).isSome = (o1.isSome && o2.isSome) := by
  cases o1 <;> cases o2 <;> rfl

theorem pairOf_eq_some_iff {R : Type} {mk : R → R → RegPair} {o1 o2 : Option R} {p : RegPair} :
    pairOf mk o1 o2 = some p ↔ ∃ r1 r2, o1 = some r1 ∧ o2 = some r2 ∧ mk r1 r2 = p := by
  cases o1 <;> cases o2 <;> simp [pairOf]

/-- Everything decoding a REGPAIR post-byte can answer: the two 16-bit registers, else the two 8-bit ones. -/
theorem decodePair_eq (pb : Byte) :
    decodePair pb = (pairOf .wide (reg16Of (firstCode pb)) (reg16Of (secondCode pb))).or
      (pairOf .narrow (reg8Of (firstCode pb)) (reg8Of (secondCode pb))) := by
  rw [decodePair, firstCode, secondCode]
  cases reg16Of (pb.extractLsb' 4 4) <;> cases reg16Of (pb.extractLsb' 0 4) <;>
    cases reg8Of (pb.extractLsb' 4 4) <;> cases reg8Of (pb.extractLsb' 0 4) <;> rfl

/-- A pair of 16-bit registers is decoded from their two codes. -/
theorem codes_of_decodePair_wide {pb : Byte} {r1 r2 : Reg16} (h : decodePair pb = some (.wide r1 r2)) :
    code16 r1 = firstCode pb ∧ code16 r2 = secondCode pb := by
  rw [decodePair_eq, Option.or_eq_some_iff, pairOf_eq_some_iff, pairOf_eq_some_iff] at h
  obtain ⟨_, _, h1, h2, he⟩ | ⟨-, _, _, -, -, he⟩ := h <;> cases he
  exact ⟨code16_of_reg16Of _ _ h1, code16_of_reg16Of _ _ h2⟩

/-- A pair of 8-bit registers is decoded from their two codes. -/
theorem codes_of_decodePair_narrow {pb : Byte} {r1 r2 : Reg8} (h : decodePair pb = some (.narrow r1 r2)) :
    code8 r1 = firstCode pb ∧ code8 r2 = secondCode pb := by
  rw [decodePair_eq, Option.or_eq_some_iff, pairOf_eq_some_iff, pairOf_eq_some_iff] at h
  obtain ⟨_, _, -, -, he⟩ | ⟨-, _, _, h1, h2, he⟩ := h <;> cases he
  exact ⟨code8_of_reg8Of _ _ h1, code8_of_reg8Of _ _ h2⟩

/-- A post-byte is valid exactly when both codes name registers of one width (R305). -/
theorem decodePair_isSome (pb : Byte) : (decodePair pb).isSome = validPair pb := by
  simp only [decodePair_eq, Option.isSome_or, pairOf_isSome, reg16Of_isSome, reg8Of_isSome, firstCode_toNat,
    secondCode_toNat, validPair, Bool.and_assoc]

/-- Settles O6: the two codes are the nibbles, each a register's own; the valid post-bytes are counted. -/
theorem validPairs : Obligations.ValidPairs := by
  refine ⟨decodePair_isSome, rfl, fun pb r1 r2 h => ?_, fun pb r1 r2 h => ?_⟩ <;>
    rw [← firstCode_eq_ofNat, ← secondCode_eq_ofNat]
  · exact codes_of_decodePair_wide h
  · exact codes_of_decodePair_narrow h

end Sys2Proof
end

section
/-! Transfer, exchange, SEX and ABX (spec/45_transfer_stack.md R308 to R311). -/

namespace Sys2Proof.Machine

open Sys2Proof.Safety

/-! ## Exchanging two registers -/

/-- Two registers exchanged, both read before either is written (R309). -/
def exchange {R V : Type} (get : R → State → V) (set : R → V → State → State) (r1 r2 : R) (st : State) : State :=
  set r2 (get r1 st) (set r1 (get r2 st) st)

section Exchange

variable {R V : Type} {get : R → State → V} {set : R → V → State → State}
  (same : ∀ r v st, get r (set r v st) = v)
  (other : ∀ {r q}, q ≠ r → ∀ v st, get q (set r v st) = get q st)
  (r1 r2 : R) (st : State)

include same

/-- The second register holds what the first held. -/
theorem get_exchange_second : get r2 (exchange get set r1 r2 st) = get r1 st := same _ _ _

include other

/-- The first register holds what the second held. -/
theorem get_exchange_first : get r1 (exchange get set r1 r2 st) = get r2 st := by
  by_cases h : r1 = r2
  · rw [h, get_exchange_second same]
  · rw [exchange, other h, same]

omit same

/-- Every other register is as before. -/
theorem get_exchange_other (q : R) (h1 : q ≠ r1) (h2 : q ≠ r2) : get q (exchange get set r1 r2 st) = get q st := by
  rw [exchange, other h2, other h1]

omit other

/-- The order of the two registers does not matter. -/
theorem exchange_comm (comm : ∀ {r q}, r ≠ q → ∀ v w st, set r v (set q w st) = set q w (set r v st)) :
    exchange get set r2 r1 st = exchange get set r1 r2 st := by
  by_cases h : r1 = r2
  · rw [h]
  · exact comm h _ _ st

end Exchange

/-! ## Writes of registers -/

/-- Writes of two 16-bit registers may change places. -/
theorem setReg16_comm {r q : Reg16} (h : r ≠ q) (v w : Word) (st : State) :
    setReg16 r v (setReg16 q w st) = setReg16 q w (setReg16 r v st) := by
  cases r <;> cases q <;> simp [setReg16] at h ⊢

/-- Writes of two 8-bit registers may change places. -/
theorem setReg8_comm {r q : Reg8} (h : r ≠ q) (v w : Byte) (st : State) :
    setReg8 r v (setReg8 q w st) = setReg8 q w (setReg8 r v st) := by
  cases r <;> cases q <;> simp [setReg8] at h ⊢

/-- Nothing but 16-bit registers differs. -/
def OnlyReg16 (st t : State) : Prop :=
  t = { st with a := t.a, b := t.b, x := t.x, y := t.y, u := t.u, s := t.s, pc := t.pc }

/-- Nothing but 8-bit registers differs. -/
def OnlyReg8 (st t : State) : Prop := t = { st with a := t.a, b := t.b, cc := t.cc, dp := t.dp }

theorem OnlyReg16.setReg16 {st t : State} (h : OnlyReg16 st t) (r : Reg16) (v : Word) :
    OnlyReg16 st (setReg16 r v t) := by
  rw [h]
  cases r <;> rfl

theorem OnlyReg8.setReg8 {st t : State} (h : OnlyReg8 st t) (r : Reg8) (v : Byte) : OnlyReg8 st (setReg8 r v t) := by
  rw [h]
  cases r <;> rfl

theorem OnlyReg16.refl (st : State) : OnlyReg16 st st := rfl

theorem OnlyReg8.refl (st : State) : OnlyReg8 st st := rfl

/-- Settles O29: TFR is one write of a register, EXG an exchange, and a register is its own. -/
theorem transferExchange : Obligations.TransferExchange :=
  ⟨fun _ r2 st => ⟨_, rfl, reg16_setReg16_same r2 _ st, fun _ hq => reg16_setReg16_other hq _ st,
      (OnlyReg16.refl st).setReg16 r2 _⟩,
    fun _ r2 st => ⟨_, rfl, reg8_setReg8_same r2 _ st, fun _ hq => reg8_setReg8_other hq _ st,
      (OnlyReg8.refl st).setReg8 r2 _⟩,
    fun r1 r2 st => ⟨exchange reg16 setReg16 r1 r2 st, rfl, congrArg _ (exchange_comm r1 r2 st setReg16_comm),
      get_exchange_second reg16_setReg16_same r1 r2 st,
      get_exchange_first reg16_setReg16_same reg16_setReg16_other r1 r2 st,
      get_exchange_other reg16_setReg16_other r1 r2 st, ((OnlyReg16.refl st).setReg16 r1 _).setReg16 r2 _⟩,
    fun r1 r2 st => ⟨exchange reg8 setReg8 r1 r2 st, rfl, congrArg _ (exchange_comm r1 r2 st setReg8_comm),
      get_exchange_second reg8_setReg8_same r1 r2 st,
      get_exchange_first reg8_setReg8_same reg8_setReg8_other r1 r2 st,
      get_exchange_other reg8_setReg8_other r1 r2 st, ((OnlyReg8.refl st).setReg8 r1 _).setReg8 r2 _⟩⟩

/-! ## SEX and ABX -/

/-- Sign-extending B into D leaves B as it is (R310). -/
theorem exec_sex (st : State) :
    exec .sex st = .next { st with a := hiByte (sext8 st.b), cc := setNZ (sext8 st.b) st.cc } := by
  obtain ⟨-, hlo, -, -⟩ := sext8_bytes st.b
  have hd : exec .sex st =
      .next { st with a := hiByte (sext8 st.b), b := loByte (sext8 st.b), cc := setNZ (sext8 st.b) st.cc } := rfl
  rw [hd, hlo]

/-- An unsigned byte added to a word, mod 2^16. -/
theorem add_zeroExtend (a : Word) (b : Byte) : a + b.zeroExtend 16 = BitVec.ofNat 16 (a.toNat + b.toNat) := by
  rw [add_eq_ofNat, BitVec.toNat_setWidth_of_le (by decide)]

/-- ABX writes no flag (R311). -/
theorem exec_abx (st : State) : exec .abx st = .next { st with x := BitVec.ofNat 16 (st.x.toNat + st.b.toNat) } := by
  rw [← add_zeroExtend]
  rfl

/-- Settles O30, by the bytes and the sign of a sign-extended byte. -/
theorem signExtendAddB : Obligations.SignExtendAddB := fun st => by
  obtain ⟨hhi, -, hmsb, hzero⟩ := sext8_bytes st.b
  obtain ⟨⟨hn, hz⟩, hkeeps⟩ := setNZ_spec (sext8 st.b) st.cc
  exact ⟨⟨_, _, exec_sex st, hhi, hn.trans hmsb, hz.trans (decide_eq_decide.2 hzero), hkeeps⟩, exec_abx st⟩

end Sys2Proof.Machine
end

section
/-! Masked pushes and pulls, and the round trip of the two (spec/45_transfer_stack.md R300 to R307, R312 to R315). -/

namespace Sys2Proof.Machine

open Sys2Proof.Safety

/-! ## Masked pushes and pulls -/

theorem length_maskBytes (k : Stack) (mm : Byte) (st : State) :
    (maskBytes k mm st).length = (layout k mm st).length := by
  rw [← maskBytes_reverse, List.length_reverse]

/-- A masked push that fits in RAM leaves its layout there. -/
theorem pushMask_fits {k : Stack} {mm : Byte} {st : State} (h : PushFits k (layout k mm st).length st) :
    ∃ t, pushMask k mm st = .next t ∧ Pushed k (layout k mm st) st t := by
  rw [← length_maskBytes] at h
  rw [← maskBytes_reverse]
  exact pushBytes_fits h

/-- A masked push that does not fit faults. -/
theorem pushMask_faults {k : Stack} {mm : Byte} {st : State} (h : ¬ PushFits k (layout k mm st).length st) :
    PushFaults k (layout k mm st) st (pushMask k mm st) := by
  rw [← length_maskBytes] at h
  rw [← maskBytes_reverse]
  exact pushBytes_faults h

/-- An instruction whose meaning is `pushMask`. -/
theorem pushResult_of_exec {mk : Byte → Instr} {k : Stack} (h : ∀ mm st, exec (mk mm) st = pushMask k mm st) :
    PushResult mk k := fun mm st => by
  rw [h]
  exact ⟨pushMask_fits, pushMask_faults⟩

/-- Settles O32: PSHS and PSHU are `pushMask` of their stack. -/
theorem push : Obligations.Push := ⟨pushResult_of_exec fun _ _ => rfl, pushResult_of_exec fun _ _ => rfl⟩

/-- An instruction whose meaning is `pullMask` always goes on. -/
theorem pullResult_of_exec {mk : Byte → Instr} {k : Stack} (h : ∀ mm st, exec (mk mm) st = .next (pullMask k mm st)) :
    PullResult mk k := fun mm st => ⟨_, h mm st, pullMask_pulled k mm st⟩

/-- Settles O33: PULS and PULU are `pullMask` of their stack. -/
theorem pull : Obligations.Pull := ⟨pullResult_of_exec fun _ _ => rfl, pullResult_of_exec fun _ _ => rfl⟩

/-! ## Runs of bytes in memory -/

/-- The `n` bytes of memory from an address upward, mod 2^16. -/
def bytesFrom (st : State) (p : Addr) (n : Nat) : List Byte :=
  (List.range n).map fun i => readByte st (p + BitVec.ofNat 16 i)

theorem bytesFrom_congr {st t : State} (h : t.mem = st.mem) (p : Addr) (n : Nat) :
    bytesFrom t p n = bytesFrom st p n :=
  List.map_congr_left fun _ _ => readByte_congr h _

theorem bytesFrom_zero (st : State) (p : Addr) : bytesFrom st p 0 = [] := rfl

/-- A run of bytes is a shorter run and the one after it. -/
theorem bytesFrom_add (st : State) (p : Addr) (m n : Nat) :
    bytesFrom st p (m + n) = bytesFrom st p m ++ bytesFrom st (p + BitVec.ofNat 16 m) n := by
  simp [bytesFrom, List.range_add, Function.comp_def, BitVec.ofNat_add, BitVec.add_assoc]

/-- What a push leaves, read from its pointer upward. -/
theorem bytesFrom_pushed {k : Stack} {bytes : List Byte} {st t : State} (h : Pushed k bytes st t) :
    bytesFrom t (pointer k t) bytes.length = bytes := by
  obtain ⟨-, hbytes, -, -⟩ := h
  refine List.ext_getElem (by simp [bytesFrom]) fun n _ hn => ?_
  simp [bytesFrom, hbytes n hn, hn]

/-! ## What a pull reads -/

/-- How many bytes the register of mask bit `n` takes (R306, R307). -/
def slotWidth (mm : Byte) (n : Nat) : Nat := if mm.getLsbD n then (if n < 4 then 1 else 2) else 0

theorem bytesBelow_zero (mm : Byte) : bytesBelow mm 0 = 0 := rfl

theorem bytesBelow_succ (mm : Byte) (n : Nat) : bytesBelow mm (n + 1) = bytesBelow mm n + slotWidth mm n := by
  simp [bytesBelow, slotWidth, List.range_succ]

/-- The bytes of the registers up to bit `n` are those below it and its own, at its slot. -/
theorem bytesFrom_bytesBelow_succ (k : Stack) (mm : Byte) (n : Nat) (st : State) :
    bytesFrom st (pointer k st) (bytesBelow mm (n + 1)) =
      bytesFrom st (pointer k st) (bytesBelow mm n) ++ bytesFrom st (slot k mm n st) (slotWidth mm n) := by
  rw [bytesBelow_succ, bytesFrom_add, slot]

/-- The part of a layout for an 8-bit register that was pulled if its bit is 1. -/
theorem bytesFrom_slot8 (st : State) (mm : Byte) (p : Addr) (v : Byte) {n : Nat} (h : n < 4) :
    (if mm.getLsbD n then [if mm.getLsbD n then readByte st p else v] else []) = bytesFrom st p (slotWidth mm n) := by
  cases hb : mm.getLsbD n <;> simp [slotWidth, bytesFrom, hb, h]

/-- The part of a layout for a 16-bit register that was pulled if its bit is 1. -/
theorem bytesFrom_slot16 (st : State) (mm : Byte) (p : Addr) (v : Word) {n : Nat} (h : ¬ n < 4) :
    (if mm.getLsbD n then wordLayout (if mm.getLsbD n then readWord st p else v) else []) =
      bytesFrom st p (slotWidth mm n) := by
  cases hb : mm.getLsbD n <;> simp [slotWidth, bytesFrom, hb, h, wordLayout, readWord, List.range_succ]

/-- The selected registers of a pull are the bytes from the pointer upward (R307). -/
theorem layout_pullMask (k : Stack) (mm : Byte) (st : State) :
    layout k mm (pullMask k mm st) = bytesFrom st (pointer k st) (bytesBelow mm 8) := by
  rw [pullMask_pulled k mm st]
  simp only [bytesFrom_bytesBelow_succ, bytesBelow_zero, bytesFrom_zero, List.nil_append]
  cases k <;> simp only [layout, bytesFrom_slot8, bytesFrom_slot16, Nat.reduceLT, not_false_eq_true]

/-- The pointer is past them all. -/
theorem pointer_pullMask (k : Stack) (mm : Byte) (st : State) :
    pointer k (pullMask k mm st) = pointer k st + BitVec.ofNat 16 (bytesBelow mm 8) := by
  rw [pullMask_pulled k mm st]
  cases k <;> rfl

/-- A layout has the bytes its mask stands for. -/
theorem length_layout (k : Stack) (mm : Byte) (st : State) : (layout k mm st).length = bytesBelow mm 8 := by
  simp [layout, bytesBelow_succ, bytesBelow_zero, slotWidth, apply_ite List.length, wordLayout, Nat.add_assoc]

/-! ## The round trip -/

/-- A pull from the memory and the pointer a push left restores the pointer and every pushed register (R307). -/
theorem pullMask_undoes_pushMask {k : Stack} {mm : Byte} {st t w : State}
    (hfits : PushFits k (layout k mm st).length st) (hpush : pushMask k mm st = .next t) (hmem : w.mem = t.mem)
    (hptr : pointer k w = pointer k t) :
    pointer k (pullMask k mm w) = pointer k st ∧ layout k mm (pullMask k mm w) = layout k mm st := by
  obtain ⟨t', ht', hpushed⟩ := pushMask_fits hfits
  obtain rfl : t' = t := Host.Outcome.next.inj (ht'.symm.trans hpush)
  constructor
  · rw [pointer_pullMask, hptr, pushed_pointer hpushed, length_layout, BitVec.sub_add_cancel]
  · rw [layout_pullMask, hptr, bytesFrom_congr hmem, ← length_layout k mm st, bytesFrom_pushed hpushed]

/-- Settles O34, on either stack by the round trip of the two masked operations. -/
theorem pushPull : Obligations.PushPull := fun _ _ _ _ =>
  ⟨fun hfits hpush hmem hptr => ⟨_, rfl, pullMask_undoes_pushMask (k := .s) hfits hpush hmem hptr⟩,
    fun hfits hpush hmem hptr => ⟨_, rfl, pullMask_undoes_pushMask (k := .u) hfits hpush hmem hptr⟩⟩

end Sys2Proof.Machine
end

section
/-! Branches, calls, jumps and return (spec/46_control_transfer.md). -/

namespace Sys2Proof.Machine

open Sys2Proof.Safety

/-! ## Branches -/

/-- The flags of the low nibble of CC are read from that nibble (10_state R26). -/
theorem getFlag_lowNibble {g : Flag} (h : flagBit g < 4) (cc : Byte) :
    getFlag g (BitVec.ofNat 8 (cc.toNat % 16)) = getFlag g cc := by
  rw [getFlag, BitVec.getLsbD_ofNat, show 16 = 2 ^ 4 from rfl, Nat.testBit_mod_two_pow]
  simp only [flagBit_lt, h, decide_true, Bool.true_and]
  rfl

/-- A predicate looks at N, Z, V and C only (R331). -/
theorem condHolds_lowNibble (k : Cond) (cc : Byte) :
    condHolds k (BitVec.ofNat 8 (cc.toNat % 16)) = condHolds k cc := by
  have hn := getFlag_lowNibble (g := .n) (by decide) cc
  have hz := getFlag_lowNibble (g := .z) (by decide) cc
  have hv := getFlag_lowNibble (g := .v) (by decide) cc
  have hc := getFlag_lowNibble (g := .c) (by decide) cc
  simp only [condHolds, hn, hz, hv, hc]

/-- The values of the nibble N:Z:V:C for which a predicate holds (R331). -/
def takenNibbles (k : Cond) : List Nat := (List.range 16).filter fun n => condHolds k (BitVec.ofNat 8 n)

theorem mod_mem_takenNibbles (k : Cond) (cc : Byte) : cc.toNat % 16 ∈ takenNibbles k ↔ condHolds k cc = true := by
  rw [takenNibbles, List.mem_filter, condHolds_lowNibble, List.mem_range]
  exact and_iff_right (Nat.mod_lt _ (by decide))

/-- A branch completes and changes PC at most (R330). -/
theorem branch_eq (k : Cond) (off : Word) (st : State) : branch k off st =
    .next { st with pc := if st.cc.toNat % 16 ∈ takenNibbles k then st.pc + off else st.pc } := by
  simp only [branch, mod_mem_takenNibbles]
  split <;> rfl

/-- An instruction whose meaning is a short branch. -/
theorem branch8Result_of_exec {mk : Byte → Instr} (k : Cond) (h : ∀ o st, exec (mk o) st = branch k (sext8 o) st) :
    Branch8Result mk (takenNibbles k) := fun o st => by
  rw [h, branch_eq, add_sext8]

/-- An instruction whose meaning is a long branch. -/
theorem branch16Result_of_exec {mk : Word → Instr} (k : Cond) (h : ∀ o st, exec (mk o) st = branch k o st) :
    Branch16Result mk (takenNibbles k) := fun o st => by
  rw [h, branch_eq, add_eq_ofNat]

/-- Settles O35: each short branch is `branch` of its predicate, and the nibbles it holds for are those listed. -/
theorem shortBranches : Obligations.ShortBranches :=
  ⟨branch8Result_of_exec .ra fun _ _ => rfl, branch8Result_of_exec .rn fun _ _ => rfl,
    branch8Result_of_exec .hi fun _ _ => rfl, branch8Result_of_exec .ls fun _ _ => rfl,
    branch8Result_of_exec .cc fun _ _ => rfl, branch8Result_of_exec .cs fun _ _ => rfl,
    branch8Result_of_exec .ne fun _ _ => rfl, branch8Result_of_exec .eq fun _ _ => rfl,
    branch8Result_of_exec .vc fun _ _ => rfl, branch8Result_of_exec .vs fun _ _ => rfl,
    branch8Result_of_exec .pl fun _ _ => rfl, branch8Result_of_exec .mi fun _ _ => rfl,
    branch8Result_of_exec .ge fun _ _ => rfl, branch8Result_of_exec .lt fun _ _ => rfl,
    branch8Result_of_exec .gt fun _ _ => rfl, branch8Result_of_exec .le fun _ _ => rfl⟩

/-- Settles O36: each long branch is `branch` of its predicate, and the nibbles it holds for are those listed. -/
theorem longBranches : Obligations.LongBranches :=
  ⟨branch16Result_of_exec .ra fun _ _ => rfl, branch16Result_of_exec .rn fun _ _ => rfl,
    branch16Result_of_exec .hi fun _ _ => rfl, branch16Result_of_exec .ls fun _ _ => rfl,
    branch16Result_of_exec .cc fun _ _ => rfl, branch16Result_of_exec .cs fun _ _ => rfl,
    branch16Result_of_exec .ne fun _ _ => rfl, branch16Result_of_exec .eq fun _ _ => rfl,
    branch16Result_of_exec .vc fun _ _ => rfl, branch16Result_of_exec .vs fun _ _ => rfl,
    branch16Result_of_exec .pl fun _ _ => rfl, branch16Result_of_exec .mi fun _ _ => rfl,
    branch16Result_of_exec .ge fun _ _ => rfl, branch16Result_of_exec .lt fun _ _ => rfl,
    branch16Result_of_exec .gt fun _ _ => rfl, branch16Result_of_exec .le fun _ _ => rfl⟩

/-! ## Calls -/

/-- A push that faults ends the sequence it begins (60_exceptions R400). -/
theorem pushFaults_andThen {k : Stack} {bytes : List Byte} {st : State} {r : Result}
    (h : PushFaults k bytes st r) (f : State → Result) : PushFaults k bytes st (andThen r f) := by
  unfold PushFaults at h ⊢
  split at h
  · next hrom =>
    rw [if_pos hrom, h]
    rfl
  · next hram =>
    obtain ⟨t, ht, hpushed⟩ := h
    rw [if_neg hram]
    exact ⟨t, by rw [ht]; rfl, hpushed⟩

/-- A call pushes the return address and then goes to its target (section 4). -/
theorem callTo_called (target : Addr) (st : State) : Called target st (callTo target st) := by
  constructor
  · intro hfits
    obtain ⟨t, ht, hpushed⟩ := pushBytes_fits (vs := wordBytes st.pc) hfits
    exact ⟨t, by rw [callTo, pushWord, ht]; rfl, hpushed⟩
  · intro hfull
    exact pushFaults_andThen (pushBytes_faults (vs := wordBytes st.pc) hfull) _

/-- Settles O37: all three are `callTo`, and JSR's starts from the state its address computation left. -/
theorem calls : Obligations.Calls :=
  ⟨fun o st => add_sext8 st.pc o ▸ callTo_called _ st, fun o st => add_eq_ofNat st.pc o ▸ callTo_called _ st,
    fun m st => callTo_called (ea m st).1 (ea m st).2⟩

/-! ## Jump and return -/

/-- RTS pulls PC from S (R368). -/
theorem exec_rts (st : State) : exec .rts st = .next { st with pc := readWord st st.s, s := st.s + 2 } := rfl

/-- A word in memory, from its bytes (20_memory R53). -/
theorem readWord_eq_ofNat (st : State) (a : Addr) :
    readWord st a = BitVec.ofNat 16 (256 * (readByte st a).toNat + (readByte st (a + 1)).toNat) := by
  rw [← joinBytes_toNat, ← eq_ofNat_toNat, readWord]

/-- Settles O38: JMP is its address computation and the jump; RTS pulls a word. -/
theorem jumpReturn : Obligations.JumpReturn :=
  ⟨fun _ _ => rfl, fun st => by rw [exec_rts, readWord_eq_ofNat, add_eq_ofNat]; rfl⟩

end Sys2Proof.Machine
end

section
/-! The placeholders under each behaviour, the software interrupts, RTI, and the round trip of the two
(spec/47_system_placeholders.md R380 to R386). -/

namespace Sys2Proof.Machine

open Sys2Proof.Safety

/-! ## The three behaviours -/

theorem placeholder_of_nop {st : State} (h : st.launch.placeholder = .nop) (which : Placeholder) (n : Word)
    (act : State → Result) : placeholder which n act st = .next st := by rw [placeholder, h]

theorem placeholder_of_fault {st : State} (h : st.launch.placeholder = .fault) (which : Placeholder) (n : Word)
    (act : State → Result) : placeholder which n act st = raise (.placeholderInstruction which (st.pc - n)) st := by
  rw [placeholder, h]

theorem placeholder_of_mc6809 {st : State} (h : st.launch.placeholder = .mc6809) (which : Placeholder) (n : Word)
    (act : State → Result) : placeholder which n act st = act st := by rw [placeholder, h]

/-- Each of the six is `placeholder` of its mnemonic and length, and only CWAI and SYNC raise its fault under `mc6809`
(R381 to R386). -/
theorem exec_placeholder {ii : Byte} {i : Instr} {which : Placeholder} {n : Nat}
    (h : (i, which, n) ∈ [(.swi, .swi, 1), (.swi2, .swi2, 2), (.swi3, .swi3, 2), (.rti, .rti, 1),
      (.cwai ii, .cwai, 2), (.sync, Placeholder.sync, 1)]) (st : State) :
    ∃ act : State → Result, exec i st = placeholder which (BitVec.ofNat 16 n) act st ∧
      (which = .cwai ∨ which = .sync →
        act st = raise (.placeholderInstruction which (st.pc - BitVec.ofNat 16 n)) st) := by
  simp only [List.mem_cons, List.not_mem_nil, or_false, Prod.mk.injEq] at h
  obtain ⟨rfl, rfl, rfl⟩ | ⟨rfl, rfl, rfl⟩ | ⟨rfl, rfl, rfl⟩ | ⟨rfl, rfl, rfl⟩ | ⟨rfl, rfl, rfl⟩ |
    ⟨rfl, rfl, rfl⟩ := h
  · exact ⟨_, rfl, by simp⟩
  · exact ⟨_, rfl, by simp⟩
  · exact ⟨_, rfl, by simp⟩
  · exact ⟨fun t => .next (interruptReturn t), rfl, by simp⟩
  · exact ⟨_, rfl, fun _ => rfl⟩
  · exact ⟨_, rfl, fun _ => rfl⟩

/-! ## Software interrupts -/

/-- The state whose registers an exception entry pushes: E is set (R381). -/
def entryState (st : State) : State := setCC (setFlag .e true st.cc) st

/-- The mask of SWI after its push (R381). -/
def swiMask (cc : Byte) : Byte := setFlag .f true (setFlag .i true cc)

/-- I and F are set if `masks`, and the other flags are kept. -/
def Masks (masks : Bool) (mask : Byte → Byte) : Prop :=
  ∀ cc, getFlag .i (mask cc) = (masks || getFlag .i cc) ∧ getFlag .f (mask cc) = (masks || getFlag .f cc) ∧
    Keeps [.e, .h, .n, .z, .v, .c] cc (mask cc)

theorem masks_swiMask : Masks true swiMask := fun cc => by simp [swiMask, Keeps]

theorem masks_id : Masks false id := fun cc => by simp [Keeps]

theorem exec_swi_of_mc6809 {st : State} (h : st.launch.placeholder = .mc6809) :
    exec .swi st = softInterrupt Config.swiVector swiMask st := placeholder_of_mc6809 h _ _ _

/-- Under `mc6809` each of the three is `softInterrupt` of its vector, which lies in ROM, and its mask. -/
theorem exec_softInterrupt {i : Instr} {vector : Addr} {masks : Bool}
    (h : (i, vector, masks) ∈ [(Instr.swi, 0xFFFA#16, true), (.swi2, 0xFFF4#16, false), (.swi3, 0xFFF2#16, false)])
    {st : State} (hmode : st.launch.placeholder = .mc6809) :
    ∃ mask, exec i st = softInterrupt vector mask st ∧ Masks masks mask ∧
      0x8000 ≤ vector.toNat ∧ 0x8000 ≤ (vector + 1).toNat := by
  simp only [List.mem_cons, List.not_mem_nil, or_false, Prod.mk.injEq] at h
  obtain ⟨rfl, rfl, rfl⟩ | ⟨rfl, rfl, rfl⟩ | ⟨rfl, rfl, rfl⟩ := h
  · exact ⟨swiMask, exec_swi_of_mc6809 hmode, masks_swiMask, by decide, by decide⟩
  · exact ⟨id, placeholder_of_mc6809 hmode _ _ _, masks_id, by decide, by decide⟩
  · exact ⟨id, placeholder_of_mc6809 hmode _ _ _, masks_id, by decide, by decide⟩

/-- A word whose two bytes are in ROM reads as before. -/
theorem Kept.readWord {st t : State} (h : Kept st t) {a : Addr} (ha : 0x8000 ≤ a.toNat)
    (ha' : 0x8000 ≤ (a + 1).toNat) : readWord t a = readWord st a := by
  rw [Machine.readWord, Machine.readWord, h.rom a ha, h.rom (a + 1) ha']

/-- An exception entry is its push, and then the mask and the jump. -/
theorem softInterrupt_of_push {vector : Addr} {mask : Byte → Byte} {st t : State}
    (h : pushMask .s 0xFF#8 (entryState st) = .next t) :
    softInterrupt vector mask st = .next { t with cc := mask t.cc, pc := readWord t vector } := by
  unfold entryState at h
  rw [softInterrupt, h]
  rfl

/-- An exception entry with room pushes every register and goes to the word at its vector. -/
theorem softInterrupt_fits {vector : Addr} (hv : 0x8000 ≤ vector.toNat) (hv' : 0x8000 ≤ (vector + 1).toNat)
    (mask : Byte → Byte) {st : State} (h : PushFits .s 12 st) :
    ∃ t, Pushed .s (layout .s 0xFF#8 (entryState st)) (entryState st) t ∧
      softInterrupt vector mask st =
        .next { t with cc := mask (setFlag .e true st.cc), pc := readWord st vector } := by
  obtain ⟨t, ht, hpushed⟩ := pushMask_fits (k := .s) (mm := 0xFF#8) (st := entryState st) h
  have hkept : Ends (Kept (entryState st)) (.next t) := ht ▸ pushMask_kept .s 0xFF#8 (entryState st)
  have hvector : readWord t vector = readWord st vector := Kept.readWord hkept hv hv'
  have hcc : t.cc = setFlag .e true st.cc := by rw [hpushed.1]; rfl
  exact ⟨t, hpushed, by rw [softInterrupt_of_push ht, hvector, hcc]⟩

/-- An exception entry without room faults in its push. -/
theorem softInterrupt_faults (vector : Addr) (mask : Byte → Byte) {st : State} (h : ¬ PushFits .s 12 st) :
    PushFaults .s (layout .s 0xFF#8 (entryState st)) (entryState st) (softInterrupt vector mask st) :=
  pushFaults_andThen (pushMask_faults (k := .s) (mm := 0xFF#8) (st := entryState st) h) _

/-! ## RTI -/

theorem exec_rti_of_mc6809 {st : State} (h : st.launch.placeholder = .mc6809) :
    exec .rti st = .next (interruptReturn st) :=
  placeholder_of_mc6809 h .rti 1 fun t => .next (interruptReturn t)

/-- RTI is a masked pull, and E of the byte at S chooses its mask. -/
theorem interruptReturn_eq (st : State) :
    interruptReturn st = pullMask .s (if getFlag .e (readByte st st.s) then 0xFF#8 else 0x81#8) st := by
  have hcc : (pullReg8 .s .cc st).cc = readByte st st.s := rfl
  rw [interruptReturn, hcc]
  split <;> rfl

/-! ## The round trip -/

theorem wordLayout_inj {v w : Word} (h : wordLayout v = wordLayout w) : v = w := by
  simp only [wordLayout, List.cons.injEq, and_true] at h
  obtain ⟨hhi, hlo⟩ := h
  rw [← joinBytes_hi_lo v, hhi, hlo, joinBytes_hi_lo]

theorem layout_all (st : State) : layout .s 0xFF#8 st = st.cc :: st.a :: st.b :: st.dp ::
    (wordLayout st.x ++ (wordLayout st.y ++ (wordLayout st.u ++ wordLayout st.pc))) := rfl

/-- The layout of all registers determines each of them. -/
theorem layout_all_inj {st w : State} (h : layout .s 0xFF#8 w = layout .s 0xFF#8 st) :
    w.cc = st.cc ∧ w.a = st.a ∧ w.b = st.b ∧ w.dp = st.dp ∧ w.x = st.x ∧ w.y = st.y ∧ w.u = st.u ∧
      w.pc = st.pc := by
  simp only [layout_all, List.cons.injEq] at h
  obtain ⟨hcc, ha, hb, hdp, hwords⟩ := h
  obtain ⟨hx, hwords⟩ := List.append_inj hwords rfl
  obtain ⟨hy, hwords⟩ := List.append_inj hwords rfl
  obtain ⟨hu, hpc⟩ := List.append_inj hwords rfl
  exact ⟨hcc, ha, hb, hdp, wordLayout_inj hx, wordLayout_inj hy, wordLayout_inj hu, wordLayout_inj hpc⟩

/-- A pull writes registers only. -/
theorem pullMask_regs (k : Stack) (mm : Byte) (st : State) :
    pullMask k mm st = { st with
      a := (pullMask k mm st).a, b := (pullMask k mm st).b, dp := (pullMask k mm st).dp
      cc := (pullMask k mm st).cc, x := (pullMask k mm st).x, y := (pullMask k mm st).y
      u := (pullMask k mm st).u, s := (pullMask k mm st).s, pc := (pullMask k mm st).pc } := by
  rw [pullMask_pulled k mm st]

/-- A pull of all registers after their push restores the state but for the bytes pushed and their record, whatever CC
and PC were in between. -/
theorem pullMask_all_undoes_pushMask {st t : State} (hfits : PushFits .s 12 st)
    (hpush : pushMask .s 0xFF#8 st = .next t) (hpushed : Pushed .s (layout .s 0xFF#8 st) st t) (cc : Byte) (pc : Word) :
    pullMask .s 0xFF#8 { t with cc := cc, pc := pc } = { st with mem := t.mem, stackTouched := t.stackTouched } := by
  obtain ⟨hs, hlayout⟩ := pullMask_undoes_pushMask (w := { t with cc := cc, pc := pc }) hfits hpush rfl rfl
  obtain ⟨hcc, ha, hb, hdp, hx, hy, hu, hpc⟩ := layout_all_inj hlayout
  have hs : (pullMask .s 0xFF#8 { t with cc := cc, pc := pc }).s = st.s := hs
  rw [pullMask_regs, hcc, ha, hb, hdp, hx, hy, hu, hs, hpc, hpushed.1]
  rfl

/-- The byte at the pointer after a push is the last one pushed. -/
theorem readByte_pushed_pointer {k : Stack} {v : Byte} {bytes : List Byte} {st t : State}
    (h : Pushed k (v :: bytes) st t) : readByte t (pointer k t) = v := by
  simpa using h.2.1 0 (by simp)

/-- RTI after an exception entry: it finds E set, and so pulls all that was pushed. -/
theorem interruptReturn_undoes_entry {st t : State} (hfits : PushFits .s 12 st)
    (hpush : pushMask .s 0xFF#8 (entryState st) = .next t)
    (hpushed : Pushed .s (layout .s 0xFF#8 (entryState st)) (entryState st) t) (cc : Byte) (pc : Word) :
    interruptReturn { t with cc := cc, pc := pc } =
      { st with cc := setFlag .e true st.cc, mem := t.mem, stackTouched := t.stackTouched } := by
  have hbyte : readByte { t with cc := cc, pc := pc } t.s = setFlag .e true st.cc := readByte_pushed_pointer hpushed
  rw [interruptReturn_eq, hbyte, getFlag_setFlag_same, if_pos rfl]
  exact pullMask_all_undoes_pushMask (st := entryState st) hfits hpush hpushed cc pc

end Sys2Proof.Machine
end

section
/-! The statements about the placeholders, in a namespace of their own: one of them has the name of a function of the
model. -/

namespace Sys2Proof.Placeholders

open Sys2Proof.Machine Sys2Proof.Safety

/-- Settles O39: each behaviour by the law of `placeholder` for it. -/
theorem placeholderModes : Obligations.PlaceholderModes := by
  intro st ii i which n hmem
  obtain ⟨act, hexec, hact⟩ := exec_placeholder hmem st
  rw [hexec]
  refine ⟨fun h => placeholder_of_nop h _ _ _, ?_⟩
  rintro (h | ⟨h, hwhich⟩)
  · exact placeholder_of_fault h _ _ _
  · exact (placeholder_of_mc6809 h _ _ _).trans (hact hwhich)

/-- Settles O40: an exception entry pushes all registers with E set, or faults in that push. -/
theorem softwareInterrupts : Obligations.SoftwareInterrupts := by
  intro st i vector masks hmem hmode
  obtain ⟨mask, hexec, hmask, hv, hv'⟩ := exec_softInterrupt hmem hmode
  obtain ⟨hi, hf, hkeeps⟩ := hmask (setFlag .e true st.cc)
  refine ⟨setFlag .e true st.cc, mask (setFlag .e true st.cc), getFlag_setFlag_same _ _ _, by simp [Keeps],
    by rw [hi]; simp, by rw [hf]; simp, hkeeps, ?_, ?_⟩
  · rw [hexec]
    exact softInterrupt_fits hv hv' mask
  · rw [hexec]
    exact softInterrupt_faults vector mask

/-- Settles O41: RTI is a masked pull, in both cases of its mask. -/
theorem interruptReturn : Obligations.InterruptReturn := fun st hmode => by
  rw [exec_rti_of_mc6809 hmode, interruptReturn_eq]
  exact ⟨fun h => ⟨_, rfl, by rw [if_pos h]; exact pullMask_pulled _ _ _⟩,
    fun h => ⟨_, rfl, by rw [h]; exact pullMask_pulled _ _ _⟩⟩

/-- Settles O42: the full pull undoes the full push, and the push leaves all bytes but its own. -/
theorem interruptRoundTrip : Obligations.InterruptRoundTrip := by
  intro st t hmode hfits hexec
  obtain ⟨p, hpush, hpushed⟩ := pushMask_fits (k := .s) (mm := 0xFF#8) (st := entryState st) hfits
  rw [exec_swi_of_mc6809 hmode, softInterrupt_of_push hpush] at hexec
  obtain rfl := Host.Outcome.next.inj hexec
  have hlaunch : p.launch.placeholder = .mc6809 := by rw [hpushed.1]; exact hmode
  refine ⟨_, exec_rti_of_mc6809 hlaunch, ?_⟩
  rw [interruptReturn_undoes_entry hfits hpush hpushed]
  refine ⟨getFlag_setFlag_same _ _ _, by simp [Keeps], rfl, fun a ha => ?_⟩
  obtain ⟨hroom, -⟩ := hfits.resolve_left (by decide)
  have hptr : (pointer .s p).toNat = st.s.toNat - 12 := pushed_pointer_toNat hpushed hroom
  obtain ⟨-, -, hframe, -⟩ := hpushed
  exact hframe a (hptr ▸ ha)

end Sys2Proof.Placeholders
end

section
/-! Bytes that are no instruction: the byte that shows it, and the fault of a step at them (spec/40_effective_address.md
R143; spec/45_transfer_stack.md R305; spec/60_exceptions.md R401, R413). -/

namespace Sys2Proof

open Sys2Proof.Machine Sys2Proof.Safety

/-- What a decoding error says of the bytes: the byte at its offset is the one it names, and is wrong. A post-byte follows
one or two opcode bytes, a register pair one. -/
def ErrorShown (bs : List Byte) : DecodeError → Prop
  | .unknownOpcode op => byteAt bs 0 = op
  | .illegalPostByte n pb => n ∈ [1, 2] ∧ undefinedSubMode pb = true ∧ byteAt bs n = pb
  | .illegalRegisterCode n pb => n = 1 ∧ validPair pb = false ∧ byteAt bs n = pb

/-- An operand is a register pair. -/
def Operand.isPair : Operand → Bool
  | .pair _ => true
  | _ => false

/-- EXG and TFR are instructions of page 1 (30_encoding R99, R100). -/
theorem isPair_of_mem_paged : ∀ e ∈ page2 ++ page3, (operandOf e.2).isPair = false := by decide

/-- A register pair follows one opcode byte. -/
theorem slotAt_pair {bs : List Byte} {n : Nat} {f : RegPair → Instr} (h : slotAt bs = some (n, .pair f)) : n = 1 := by
  obtain ⟨g, hg, -, ⟨-, hs⟩ | ⟨-, hs⟩ | ⟨hn, -⟩⟩ := slotAt_some h
  · have hpair := isPair_of_mem_paged _ (List.mem_append_left _ (slotOf_mem hs))
    rw [← hg] at hpair
    cases hpair
  · have hpair := isPair_of_mem_paged _ (List.mem_append_right _ (slotOf_mem hs))
    rw [← hg] at hpair
    cases hpair
  · exact hn

/-- An indexed operand is wrong only in its post-byte. -/
theorem decodeIdx_error {f : Indexed → Instr} {n : Nat} {bs : List Byte} {e : DecodeError}
    (h : decodeIdx f n bs = .error e) :
    e = .illegalPostByte n (byteAt bs n) ∧ undefinedSubMode (byteAt bs n) = true := by
  rw [← decodeIndexed_isNone _ (byteAt bs (n + 1)) (byteAt bs (n + 2))]
  unfold decodeIdx at h
  cases hp : decodeIndexed (byteAt bs n) (byteAt bs (n + 1)) (byteAt bs (n + 2)) with
  | none =>
    rw [hp] at h
    cases h
    exact ⟨rfl, rfl⟩
  | some p =>
    rw [hp] at h
    cases h

/-- In a filled slot a post-byte without a meaning or a register pair that is not valid shows the error. -/
theorem decodeOperand_error {bs : List Byte} {n : Nat} {o : Operand} {e : DecodeError} (hs : slotAt bs = some (n, o))
    (h : decodeOperand n bs o = .error e) : ErrorShown bs e := by
  cases o with
  | inh | byte | word => cases h
  | post f =>
    obtain ⟨rfl, hpb⟩ := decodeIdx_error h
    exact ⟨by simpa using slotAt_length hs, hpb, rfl⟩
  | pair f =>
    obtain rfl := slotAt_pair hs
    unfold decodeOperand at h
    cases hp : decodePair (byteAt bs 1) with
    | none =>
      rw [hp] at h
      cases h
      exact ⟨rfl, by rw [← decodePair_isSome, hp]; rfl, rfl⟩
    | some p =>
      rw [hp] at h
      cases h

/-- Every decoding error is shown by a byte. -/
theorem decode_error {bs : List Byte} {e : DecodeError} (h : decode bs = .error e) : ErrorShown bs e := by
  cases hs : slotAt bs with
  | some slot => exact decodeOperand_error hs ((decode_of_slotAt hs).symm.trans h)
  | none =>
    obtain ⟨h2, he⟩ | ⟨h3, he⟩ | ⟨h2, h3, he⟩ := slotAt_none hs
    · rw [decode_emptyPage2 h2 he] at h
      cases h
    · rw [decode_emptyPage3 h3 he] at h
      cases h
    · rw [decode_emptyPage1 h2 h3 he] at h
      cases h
      rfl

end Sys2Proof

namespace Sys2Proof.Machine

open Sys2Proof.Safety

/-- Where a step may run, bytes that are no instruction raise their fault (60_exceptions R401). -/
theorem step_of_decode_error {st : State} {e : DecodeError} (hm : MayRun st) (h : decode (fetchBytes st) = .error e) :
    step st = raise (decodeFault st.pc e) (beginInstr (errorLength e) st) := by
  rw [step_mayRun hm, runInstr, h]

/-- An instruction's byte `k` is the byte of memory `k` addresses after PC. -/
theorem readByte_of_byteAt_fetchBytes {st : State} {k : Nat} {b : Byte} (h : byteAt (fetchBytes st) k = b)
    (hk : k < Config.maxLength) : readByte st (st.pc + BitVec.ofNat 16 k) = b := by
  rw [add_ofNat, ← byteAt_fetchBytes st hk, h]

/-- Settles O45: a step raises the fault of the decoding error, and the byte that shows the error is read from memory. -/
theorem stepBadBytes : Obligations.StepBadBytes := by
  intro st e hm hdec
  have hstep := step_of_decode_error hm hdec
  have hshown := decode_error hdec
  cases e with
  | unknownOpcode op => exact hstep
  | illegalPostByte n pb =>
    obtain ⟨hn, hpb, hbyte⟩ := hshown
    have hlt : n < Config.maxLength := by
      simp only [List.mem_cons, List.not_mem_nil, or_false] at hn
      rw [Config.maxLength]
      omega
    exact ⟨hn, hpb, readByte_of_byteAt_fetchBytes hbyte hlt, hstep⟩
  | illegalRegisterCode n pb =>
    obtain ⟨rfl, hpb, hbyte⟩ := hshown
    exact ⟨rfl, hpb, readByte_of_byteAt_fetchBytes hbyte (by decide), hstep⟩

end Sys2Proof.Machine
end

section
/-! Which faults an instruction can raise: `FaultOf`, proved shape by shape and then of every instruction
(spec/60_exceptions.md R401, R402; spec/70_reset_and_hazards.md R451). -/

namespace Sys2Proof.Machine

open Sys2Proof.Safety

/-! ## Results that raise only certain faults -/

/-- A result that goes on, or raises a fault whose info has `P`; it does not refuse. -/
def Raises (P : FaultInfo → Prop) : Result → Prop
  | .next _ => True
  | .fault f => P (faultInfo f)
  | .refused _ => False

theorem Raises.raise {P : FaultInfo → Prop} {info : FaultInfo} (h : P info) (st : State) : Raises P (raise info st) := by
  rw [Machine.raise, Raises, faultInfo_faultOf]
  exact h

theorem Raises.mono {P Q : FaultInfo → Prop} {r : Result} (h : Raises P r) (k : ∀ info, P info → Q info) :
    Raises Q r := by
  cases r with
  | next t => trivial
  | fault f => exact k _ h
  | refused q => exact h

theorem Raises.andThen {P : FaultInfo → Prop} {r : Result} {k : State → Result} (h : Raises P r)
    (hk : ∀ t, Raises P (k t)) : Raises P (andThen r k) := by
  cases r with
  | next t => exact hk t
  | fault f => exact h
  | refused q => exact h

/-! ## Writes -/

/-- The fault of a write to ROM (20_memory R54). -/
def IsRomWrite (info : FaultInfo) : Prop := ∃ a : Addr, info = .romWrite a ∧ 0x8000 ≤ a.toNat

theorem writeByte_raises (a : Addr) (v : Byte) (st : State) : Raises IsRomWrite (writeByte a v st) := by
  by_cases h : a.toNat < 0x8000
  · rw [writeByte_ram h]
    trivial
  · rw [writeByte_rom (Nat.le_of_not_lt h)]
    exact .raise ⟨a, rfl, Nat.le_of_not_lt h⟩ st

theorem writeWord_raises (a : Addr) (v : Word) (st : State) : Raises IsRomWrite (writeWord a v st) :=
  (writeByte_raises a _ st).andThen fun t => writeByte_raises (a + 1) _ t

theorem pushByte_raises (k : Stack) (v : Byte) (st : State) : Raises IsRomWrite (pushByte k v st) :=
  (writeByte_raises _ v _).andThen fun _ => trivial

theorem pushBytes_raises (k : Stack) (vs : List Byte) (st : State) : Raises IsRomWrite (pushBytes k vs st) := by
  induction vs generalizing st with
  | nil => trivial
  | cons v vs ih => exact (pushByte_raises k v st).andThen ih

theorem callTo_raises (t : Addr) (st : State) : Raises IsRomWrite (callTo t st) :=
  (pushBytes_raises .s _ st).andThen fun _ => trivial

theorem softInterrupt_raises (vector : Addr) (mask : Byte → Byte) (st : State) :
    Raises IsRomWrite (softInterrupt vector mask st) := (pushBytes_raises .s _ _).andThen fun _ => trivial

/-! ## Instructions -/

/-- The faults an instruction may raise from a state. -/
def FaultOf (i : Instr) (st : State) : FaultInfo → Prop
  | .romWrite a => writesMem i = true ∧ 0x8000 ≤ a.toNat
  | .placeholderInstruction _ _ => isPlaceholder i = true ∧ st.launch.placeholder ≠ .nop
  | .unknownOpcode _ _ _ => isPageByte i = true
  | _ => False

theorem faultOf_of_write {i : Instr} {st : State} {r : Result} (hi : writesMem i = true) (h : Raises IsRomWrite r) :
    Raises (FaultOf i st) r := h.mono fun _ ⟨_, hinfo, ha⟩ => hinfo ▸ ⟨hi, ha⟩

theorem unknownOpcode_raises {i : Instr} (hi : isPageByte i = true) (page : Page) (op : Byte) (first : Addr)
    (st : State) : Raises (FaultOf i st) (raise (.unknownOpcode page op first) st) := .raise hi st

/-- A branch goes on, taken or not (46_control_transfer R330). -/
theorem branch_raises {P : FaultInfo → Prop} (k : Cond) (off : Word) (st : State) : Raises P (branch k off st) := by
  unfold branch
  split <;> trivial

theorem execTfr_raises {P : FaultInfo → Prop} (p : RegPair) (st : State) : Raises P (execTfr p st) := by
  cases p <;> trivial

theorem execExg_raises {P : FaultInfo → Prop} (p : RegPair) (st : State) : Raises P (execExg p st) := by
  cases p <;> trivial

/-- A placeholder raises its own fault under `fault`, and what its meaning raises under `mc6809` (R380). -/
theorem placeholder_raises {i : Instr} {st : State} (hi : isPlaceholder i = true) (which : Placeholder) (n : Word)
    {act : State → Result} (h : st.launch.placeholder = .mc6809 → Raises (FaultOf i st) (act st)) :
    Raises (FaultOf i st) (placeholder which n act st) := by
  unfold placeholder
  split
  · next hp => exact .raise ⟨hi, by simp [hp]⟩ st
  · trivial
  · next hp => exact h hp

/-- CWAI and SYNC raise their own fault under `mc6809` too (R385, R386). -/
theorem placeholder_raise_raises {i : Instr} {st : State} (hi : isPlaceholder i = true) (which : Placeholder) (n : Word)
    (first : Addr) : Raises (FaultOf i st) (placeholder which n (raise (.placeholderInstruction which first)) st) :=
  placeholder_raises hi which n fun hp => .raise ⟨hi, by simp [hp]⟩ st

theorem placeholder_softInterrupt_raises {i : Instr} {st : State} (hi : isPlaceholder i = true)
    (hw : writesMem i = true) (which : Placeholder) (n : Word) (vector : Addr) (mask : Byte → Byte) :
    Raises (FaultOf i st) (placeholder which n (softInterrupt vector mask) st) :=
  placeholder_raises hi which n fun _ => faultOf_of_write hw (softInterrupt_raises vector mask st)

/-- Whatever an instruction does, it raises a fault of its own kind only: each arm by its shape. -/
theorem exec_raises (i : Instr) (st : State) : Raises (FaultOf i st) (exec i st) := by
  cases i
  case prefixPage2 | prefixPage3 => exact unknownOpcode_raises rfl _ _ _ st
  case neg | com | lsr | ror | asr | asl | rol | dec | inc | clr => exact faultOf_of_write rfl (writeByte_raises _ _ _)
  case sta | stb => exact faultOf_of_write rfl (writeByte_raises _ _ _)
  case std | stx | sty | stu | sts => exact faultOf_of_write rfl (writeWord_raises _ _ _)
  case pshs | pshu => exact faultOf_of_write rfl (pushBytes_raises _ _ st)
  case bsr | lbsr | jsr => exact faultOf_of_write rfl (callTo_raises _ _)
  case swi | swi2 | swi3 => exact placeholder_softInterrupt_raises rfl rfl _ _ _ _
  case sync | cwai => exact placeholder_raise_raises rfl _ _ _
  case rti => exact placeholder_raises rfl .rti 1 (act := fun t => .next (interruptReturn t)) fun _ => trivial
  case bra | lbra => exact branch_raises .ra _ st
  case brn o => exact branch_raises .rn (sext8 o) st
  case lbrn o => exact branch_raises .rn o st
  case bhi | bls | bcc | bcs | bne | beq | bvc => exact branch_raises _ _ st
  case bvs | bpl | bmi | bge | blt | bgt | ble => exact branch_raises _ _ st
  case lbhi | lbls | lbcc | lbcs | lbne | lbeq | lbvc => exact branch_raises _ _ st
  case lbvs | lbpl | lbmi | lbge | lblt | lbgt | lble => exact branch_raises _ _ st
  case tfr => exact execTfr_raises _ st
  case exg => exact execExg_raises _ st
  -- The other arms answer a next state.
  all_goals exact True.intro

/-- A page byte never goes on (30_encoding R83). -/
theorem exec_pageByte_ne_next {i : Instr} (h : isPageByte i = true) (st t : State) : exec i st ≠ .next t := by
  cases i
  case prefixPage2 | prefixPage3 => exact raise_ne_next _ st t
  all_goals cases h

/-- Settles O48: the faults are those of `FaultOf`, and a page byte raises its own. -/
theorem whichFaults : Obligations.WhichFaults := by
  intro i st
  have hraises := exec_raises i st
  cases hexec : exec i st with
  | next t => exact eq_false_of_ne_true fun hi => exec_pageByte_ne_next hi st t hexec
  | refused q =>
    rw [hexec] at hraises
    exact hraises
  | fault f =>
    rw [hexec] at hraises
    cases f <;> exact hraises

end Sys2Proof.Machine
end

section
/-! The ends of a run: a fault and a termination leave the machine stopped with a report that a further step repeats, and
the instruction ceiling brings one of them about (spec/60_exceptions.md R400, R404, R406, R410 to R412, R420, R423). -/

namespace Sys2Proof.Machine

open Sys2Proof.Safety

/-! ## Faults and terminations are reported again -/

/-- Every step goes on or raises a fault. -/
theorem step_ends (st : State) : Ends (fun _ => True) (step st) := (step_romKept st).mono fun _ _ => trivial

/-- A fault of a step was raised in some state (60_exceptions R400). -/
theorem step_fault_raised {st : State} {f : Fault} (h : step st = .fault f) :
    ∃ info u, f = faultOf (stopWith (.fault info) u) info := by
  have hends := step_ends st
  rw [h] at hends
  obtain ⟨info, u, hf, -⟩ := hends
  exact ⟨info, u, hf⟩

/-- In the state a fault left, a step reports the fault again (60_exceptions R404). -/
theorem step_stopWith_fault (info : FaultInfo) (st : State) :
    step (stopWith (.fault info) st) = .fault (faultOf (stopWith (.fault info) st) info) := rfl

/-- After a termination a step changes nothing (60_exceptions R410). -/
theorem step_terminate (st : State) : step (terminate st) = .next (terminate st) := rfl

/-- The start of an instruction leaves no machine stopped (60_exceptions R424). -/
theorem beginInstr_runState_ne_stopped (n : Nat) (st : State) : (beginInstr n st).runState ≠ .stopped := by
  by_cases h : st.runState = .running <;> simp [beginInstr, h]

/-- Settles O47: a fault is raised and a termination made in a state that a step finds stopped with its report; a step that
ran an instruction left none stopped. -/
theorem stoppedAgain : Obligations.StoppedAgain := by
  refine ⟨fun st f h _ => ?_, fun st f h => ?_, fun st t h ht => ?_⟩
  · obtain ⟨info, u, rfl⟩ := step_fault_raised h
    rw [faultLeft_faultOf, faultInfo_faultOf]
    exact ⟨rfl, rfl⟩
  · obtain ⟨info, u, rfl⟩ := step_fault_raised h
    rw [faultLeft_faultOf]
    exact step_stopWith_fault info u
  · rcases step_next_cases h with ⟨-, rfl⟩ | ⟨-, rfl⟩ | ⟨-, n, hk⟩
    · exact h
    · exact step_terminate st
    · exact absurd (hk.runState.symm.trans ht) (beginInstr_runState_ne_stopped n st)

/-! ## The boundary tests -/

/-- Settles O46: outside `Stopped` a step is `boundary`, whose tests are made one after the other. -/
theorem boundaryOrder : Obligations.BoundaryOrder := by
  intro st hs
  rw [step_boundary hs, boundary]
  refine ⟨fun hend => ?_, fun hend hstart => ?_, fun hend hstart hcount => ?_, by omega⟩
  · rw [if_pos hend]
    rfl
  · rw [if_neg (Nat.not_le.2 hend), if_pos hstart]
    rfl
  · rw [if_neg (Nat.not_le.2 hend), if_neg (Nat.not_lt.2 hstart), if_pos hcount]
    rfl

/-! ## Every run ends -/

/-- `n` steps reach a fault or `Stopped` (60_exceptions R423). -/
def EndsAfter (n : Nat) (st : State) : Prop :=
  (∃ f, core.run n st = .fault f) ∨ (∃ t, core.run n st = .next t ∧ t.runState = .stopped)

theorem endsAfter_zero {st : State} (h : st.runState = .stopped) : EndsAfter 0 st := .inr ⟨st, run_zero st, h⟩

theorem endsAfter_of_fault {st : State} {f : Fault} (h : step st = .fault f) : EndsAfter 1 st :=
  .inl ⟨f, run_succ_fault 0 h⟩

/-- A run ends one step later than the run that a first step begins. -/
theorem endsAfter_succ {st t : State} {n : Nat} (h : step st = .next t) (ht : EndsAfter n t) :
    EndsAfter (n + 1) st := by
  unfold EndsAfter
  rw [run_succ_next n h]
  exact ht

/-- By induction on what the ceiling leaves: a step that runs an instruction uses one of it up, any other ends the run. -/
theorem exists_endsAfter (left : Nat) {st : State} (h : st.launch.instrCeiling - st.instrCount = left) :
    ∃ n ≤ left + 1, EndsAfter n st := by
  induction left using Nat.strongRecOn generalizing st with
  | _ left ih =>
    cases hstep : step st with
    | fault f => exact ⟨1, by omega, endsAfter_of_fault hstep⟩
    | refused q =>
      have hends := step_ends st
      rw [hstep] at hends
      exact hends.elim
    | next t =>
      rcases step_next_cases hstep with ⟨hs, -⟩ | ⟨-, rfl⟩ | ⟨⟨-, -, -, hcount⟩, k, hk⟩
      · exact ⟨0, by omega, endsAfter_zero hs⟩
      · exact ⟨1, by omega, endsAfter_succ hstep (endsAfter_zero rfl)⟩
      · have hleft : t.launch.instrCeiling - t.instrCount = st.launch.instrCeiling - (st.instrCount + 1) := by
          rw [hk.launch, hk.instrCount]
          rfl
        obtain ⟨n, hn, hend⟩ := ih _ (by omega) hleft
        exact ⟨n + 1, by omega, endsAfter_succ hstep hend⟩

/-- Settles O56, by the bound for what the ceiling leaves. -/
theorem runsEnd : Obligations.RunsEnd := fun _ => exists_endsAfter _ rfl

end Sys2Proof.Machine
end

section
/-! The run loop and the host's calls, run state by run state (spec/60_exceptions.md R420 to R422;
spec/70_reset_and_hazards.md R443, R447). -/

namespace Sys2Proof.Machine

open Sys2Proof.Safety

/-! ## The run loop -/

/-- The tests of a turn of the loop, in their order (60_exceptions R421). -/
theorem loopTurn_running {st : State} (h : st.runState = .running) :
    loopTurn st =
      if st.stopFlag then .next { st with stopFlag := false, runState := .stopped }
      else if st.pauseFlag then .next { st with pauseFlag := false, runState := .paused }
      else if st.pc ∈ st.launch.breakpoints ∧ st.skipBreakpoint = false then .next { st with runState := .paused }
      else step { st with skipBreakpoint := false } := by
  simp [loopTurn, h, step]

/-- Settles O58: each clause is the branch that its tests lead to. -/
theorem runLoop : Obligations.RunLoop := by
  intro st hr
  rw [loopTurn_running hr]
  refine ⟨fun hstop => ?_, fun hstop hpause => ?_, fun hstop hpause hbp hskip => ?_, fun hstop hpause hgo => ?_⟩
  · rw [if_pos hstop]
  · rw [if_neg (by simp [hstop]), if_pos hpause]
  · rw [if_neg (by simp [hstop]), if_neg (by simp [hpause]), if_pos ⟨hbp, hskip⟩]
  · have hpass : ¬ (st.pc ∈ st.launch.breakpoints ∧ st.skipBreakpoint = false) := by
      rintro ⟨hbp, hskip⟩
      simp [hbp, hskip] at hgo
    rw [if_neg (by simp [hstop]), if_neg (by simp [hpause]), if_neg hpass]

/-! ## The host's calls -/

theorem readByte_loadByteCall (a : Addr) (v : Byte) (st : State) (b : Addr) :
    readByte (loadByteCall a v st) b = if b = a then v else readByte st b := readByte_storeByte a b v st

/-- The image after a load: its byte, and every other byte as before (70_reset_and_hazards R443). -/
theorem memGet_image_loadByteCall (a : Addr) (v : Byte) (st : State) (b : Nat) :
    memGet (loadByteCall a v st).launch.memImage b = if b = a.toNat then v else memGet st.launch.memImage b :=
  memGet_memSet _ _ _ _

/-- Bounds in range are a load (70_reset_and_hazards R443, R447). -/
theorem hostCall_setBounds {hi : Nat} (h : hi ≤ 0x10000) (lo : Addr) (line : Int) (st : State) :
    hostCall (.setBounds lo hi line) st =
      beforeRun (setLaunch fun l => { l with progStart := lo, progEnd := hi, endLine := line }) st := if_pos h

/-- Bounds out of range are refused (10_state R39). -/
theorem hostCall_setBounds_refused {hi : Nat} (h : 0x10000 < hi) (lo : Addr) (line : Int) (st : State) :
    hostCall (.setBounds lo hi line) st = .refused (.badProgEnd hi) := if_neg (Nat.not_le.2 h)

/-- Settles O59: run state by run state, then the loads where they are allowed, where they are refused, and out of range. -/
theorem hostCalls : Obligations.HostCalls := by
  intro st
  refine ⟨fun h hready => ?_, fun h hdue => ?_, fun h => ?_, fun h => ?_, fun h => ?_, fun h => ?_, fun h => ?_,
    fun h => ?_, fun lo hi line hhi => hostCall_setBounds_refused hhi lo line st⟩
  · simp [hostCall, runCall, manualStep, step, h, hready]
  · simp [hostCall, runCall, manualStep, h, hdue]
  · simp [hostCall, pauseCall, resumeCall, stopCall, h]
  · simp [hostCall, runCall, pauseCall, resumeCall, stopCall, manualStep, notAllowed, h]
  · simp [hostCall, runCall, pauseCall, resumeCall, stopCall, manualStep, step, notAllowed, h]
  · have hstep : hostCall .step st = step st := by simp [hostCall, manualStep, step, h]
    have hnext (t : State) (ht : hostCall .step st = .next t) : t = st := step_stopped_next h (hstep.symm.trans ht)
    refine ⟨?_, ?_, ?_, ?_, hstep, hnext⟩ <;>
      simp [hostCall, runCall, pauseCall, resumeCall, stopCall, notAllowed, h]
  · refine ⟨fun a v => ⟨_, beforeRun_allowed (loadByteCall a v) h, ?_, ?_, ?_, ?_, rfl⟩, fun lo hi line hhi => ?_⟩
    · exact (readByte_loadByteCall a v st a).trans (if_pos rfl)
    · exact fun b hb => (readByte_loadByteCall a v st b).trans (if_neg (by simpa using hb))
    · exact (memGet_image_loadByteCall a v st _).trans (if_pos rfl)
    · exact fun b hb => (memGet_image_loadByteCall a v st b).trans (if_neg hb)
    · rw [hostCall_setBounds hhi, beforeRun_allowed _ h]
      rfl
  · refine ⟨fun a v => beforeRun_refused _ h, fun lo hi line hhi => ?_⟩
    rw [hostCall_setBounds hhi, beforeRun_refused _ h]

end Sys2Proof.Machine
end

section
/-! Reset and the launch of a run (spec/10_state.md R46; spec/70_reset_and_hazards.md R440, R441, R446). -/

namespace Sys2Proof.Machine

open Sys2Proof.Safety

/-- While the loop runs, reset is refused (60_exceptions R421). -/
theorem hostCall_reset_running {st : State} (h : st.runState = .running) :
    hostCall .reset st = .refused (.callNotAllowed .running) := by
  simp [hostCall, betweenRuns, notAllowed, h]

/-- Between runs, reset answers the reset state of the launch parameters in force (70_reset_and_hazards R440). -/
theorem hostCall_reset_next {st : State} (h : st.runState ≠ .running) :
    hostCall .reset st = .next (resetState st.launch) := if_neg h

/-- The launch premises after a reset: the image and the order of the bounds are the host's part, ROM is locked in every
state, and the reset itself gives the rest. -/
theorem launchPremises_resetState {emitted : List (Addr × Byte)} {l : Launch} (himage : ImageHolds emitted l.memImage)
    (hbounds : BoundsOrdered l) : LaunchPremises emitted l.instrCeiling (resetState l) where
  pcAtStart := rfl
  dpZero := rfl
  noFaultRecorded := rfl
  countZero := rfl
  flagsClear := ⟨rfl, rfl⟩
  idle := rfl
  imageLoaded := himage
  romLocked _ v hrom := writeByte_rom hrom v _
  boundsOrdered := hbounds
  ceiling := rfl
  nothingInFlight := rfl

/-- Settles O57: between runs the answer is `resetState`, each element of it by definition, and the launch premises hold
there. -/
theorem resetCall : Obligations.ResetCall := fun st =>
  ⟨hostCall_reset_running, fun h =>
    ⟨resetState st.launch, hostCall_reset_next h,
      rfl, rfl, rfl, rfl, rfl, rfl, rfl, rfl, rfl, rfl, rfl, rfl, rfl, rfl, rfl, rfl, rfl, rfl,
      fun _ => launchPremises_resetState⟩⟩

end Sys2Proof.Machine
end
